-- ==== Sys2Proof/Word.lean ====
section
/-! DEFINITION. The widths of the block: 32-bit words, 128-bit frames, 40-bit payloads, 68-bit command words. -/

namespace Sys2Proof

/-- One byte of a frame or of a payload. -/
abbrev Byte := BitVec 8

/-- A 32-bit unsigned number: a duration, a length operand, one word of a frame (R11, R31, R50). -/
abbrev Word := BitVec 32

/-- A 128-bit frame read as one integer: stream position `i` is bit `127 - i` (R31). -/
abbrev Frame := BitVec 128

/-- A 5-byte payload: byte `p0` is bits 39 to 32 (R32). -/
abbrev Payload := BitVec 40

/-- A command word (R50). -/
abbrev CommandWord := BitVec 68

end Sys2Proof
end

