-- ==== Sys2Proof/Syntax.lean ====
section
/-! DEFINITION. What is presented to the block (a command with its data ports) and the nine operations it stands for. -/

namespace Sys2Proof

/-- One issued operation as it stands on the ports: the command word and the two data-in ports
"sampled with `cmd`" (R50, R53). -/
structure Command where
  cmd : CommandWord
  payloadIn : Payload
  wireIn : Frame
  deriving DecidableEq, Repr

/-- The four fields of a command word (R50). -/
structure Fields where
  op : BitVec 3
  r : BitVec 1
  a : Word
  b : Word
  deriving DecidableEq, Repr

/-- The nine operations (R2, R51), one constructor per row of the opcode table. A data operand is the value of
the port that R51 lists for the operation (log 10). -/
inductive Instr where
  /-- `process_front(true, d)`, R70. -/
  | edgeR (d : Word)
  /-- `process_front(false, d)`, R71. -/
  | edgeF (d : Word)
  /-- `read(out_buffer, min_size)`, size in words, R90. -/
  | read (minSize : Word)
  /-- `reset_state()`, R91. -/
  | resetState
  /-- `encode(payload, payload_len, out wire, wire_cap)`, R114. -/
  | encode (payloadLen wireCap : Word) (payload : Payload)
  /-- `decode(wire, wire_len, out payload, payload_cap)`, R115. -/
  | decode (wireLen payloadCap : Word) (wire : Frame)
  /-- `can_be_decoded(wire, wire_len)`, R116. -/
  | canDecode (wireLen : Word) (wire : Frame)
  /-- `encoded_size()`, R101. -/
  | encSize
  /-- `decoded_size()`, R102. -/
  | decSize
  deriving DecidableEq, Repr

/-- Why a command word is reserved (R55): which must-be-zero field is not zero. -/
inductive Reserved where
  /-- `r = 1` with an `op` other than 000. -/
  | nonzeroR
  /-- `a` is not zero in RESET_STATE, ENC_SIZE or DEC_SIZE. -/
  | nonzeroA
  /-- `b` is not zero in an operation that has no second operand. -/
  | nonzeroB
  deriving DecidableEq, Repr

end Sys2Proof
end

