-- ==== Sys2Proof/WellFormed.lean ====
section
/-! DEFINITION. The checks of R55 on the fields of a command word. Every term of `Instr` is well formed by its type (its
operands are the full-width ports of R51), so what can be ill formed is a command word. -/

namespace Sys2Proof

/-- `r` is zero "in every other operation" than the edge operation (R50, R55). -/
def Fields.rOk (f : Fields) : Bool := f.op == 0#3 || f.r == 0#1

/-- `a` is zero in RESET_STATE, ENC_SIZE and DEC_SIZE (R55). -/
def Fields.aOk (f : Fields) : Bool :=
  !(f.op == 2#3 || f.op == 6#3 || f.op == 7#3) || f.a == 0#32

/-- `b` is zero in all operations but ENCODE and DECODE (R55). -/
def Fields.bOk (f : Fields) : Bool := f.op == 3#3 || f.op == 4#3 || f.b == 0#32

/-- The word is not reserved (R55). -/
def Fields.wellFormed (f : Fields) : Bool := f.rOk && f.aOk && f.bOk

end Sys2Proof
end

