-- ==== Sys2Proof/Decode.lean ====
section
/-! DEFINITION. The command word of 30_encoding.md: its fields, the decoder, the encoder and the opcode table. -/

namespace Sys2Proof

/-- The fields of a command word: `op = cmd[67:65]`, `r = cmd[64]`, `a = cmd[63:32]`, `b = cmd[31:0]` (R50). -/
def fieldsOf (w : CommandWord) : Fields where
  op := w.extractLsb' 65 3
  r := w.extractLsb' 64 1
  a := w.extractLsb' 32 32
  b := w.extractLsb' 0 32

/-- The command word with the given fields (R50). -/
def wordOf (f : Fields) : CommandWord := f.op ++ f.r ++ f.a ++ f.b

/-- The operation stands if the field `b` is zero (R55). -/
def ifZeroB (f : Fields) (i : Instr) : Except Reserved Instr :=
  if f.b = 0#32 then .ok i else .error .nonzeroB

/-- The operation stands if the fields `a` and `b` are zero (R55). -/
def ifZeroAB (f : Fields) (i : Instr) : Except Reserved Instr :=
  if f.a = 0#32 then ifZeroB f i else .error .nonzeroA

/-- The operation map of R51 for `op` other than 000. All eight values are assigned: the last one is 111. -/
def decodeOp (f : Fields) (c : Command) : Except Reserved Instr :=
  if f.op = 1#3 then ifZeroB f (.read f.a)
  else if f.op = 2#3 then ifZeroAB f .resetState
  else if f.op = 3#3 then .ok (.encode f.a f.b c.payloadIn)
  else if f.op = 4#3 then .ok (.decode f.a f.b c.wireIn)
  else if f.op = 5#3 then ifZeroB f (.canDecode f.a c.wireIn)
  else if f.op = 6#3 then ifZeroAB f .encSize
  else ifZeroAB f .decSize

/-- The operation that a command stands for, or why its word is reserved (R51, R55). A data port that R51 does not
list for the operation is ignored (R53). -/
def decodeCommand (c : Command) : Except Reserved Instr :=
  let f := fieldsOf c.cmd
  if f.op = 0#3 then ifZeroB f (if f.r = 1#1 then .edgeR f.a else .edgeF f.a)
  else if f.r = 0#1 then decodeOp f c
  else .error .nonzeroR

/-- The encoder: the command that stands for an operation (R51). A port the operation ignores is driven with zeros. -/
def encodeCommand : Instr → Command
  | .edgeR d => ⟨wordOf ⟨0#3, 1#1, d, 0#32⟩, 0#40, 0#128⟩
  | .edgeF d => ⟨wordOf ⟨0#3, 0#1, d, 0#32⟩, 0#40, 0#128⟩
  | .read minSize => ⟨wordOf ⟨1#3, 0#1, minSize, 0#32⟩, 0#40, 0#128⟩
  | .resetState => ⟨wordOf ⟨2#3, 0#1, 0#32, 0#32⟩, 0#40, 0#128⟩
  | .encode payloadLen wireCap payload => ⟨wordOf ⟨3#3, 0#1, payloadLen, wireCap⟩, payload, 0#128⟩
  | .decode wireLen payloadCap wire => ⟨wordOf ⟨4#3, 0#1, wireLen, payloadCap⟩, 0#40, wire⟩
  | .canDecode wireLen wire => ⟨wordOf ⟨5#3, 0#1, wireLen, 0#32⟩, 0#40, wire⟩
  | .encSize => ⟨wordOf ⟨6#3, 0#1, 0#32, 0#32⟩, 0#40, 0#128⟩
  | .decSize => ⟨wordOf ⟨7#3, 0#1, 0#32, 0#32⟩, 0#40, 0#128⟩

/-- A row of spec/opcode_table.json: a word is the row's when its bits under `mask` are `pattern`. -/
structure OpcodeRow where
  mnemonic : String
  pattern : CommandWord
  mask : CommandWord
  deriving DecidableEq, Repr

/-- The word belongs to the row. -/
def OpcodeRow.covers (row : OpcodeRow) (w : CommandWord) : Bool := w &&& row.mask == row.pattern

/-- The row of spec/opcode_table.json that an operation is listed under. -/
def opcodeRow : Instr → OpcodeRow
  | .edgeR _ => ⟨"EDGE.R", 0x10000000000000000#68, 0xF00000000FFFFFFFF#68⟩
  | .edgeF _ => ⟨"EDGE.F", 0x00000000000000000#68, 0xF00000000FFFFFFFF#68⟩
  | .read _ => ⟨"READ", 0x20000000000000000#68, 0xF00000000FFFFFFFF#68⟩
  | .resetState => ⟨"RESET_STATE", 0x40000000000000000#68, 0xFFFFFFFFFFFFFFFFF#68⟩
  | .encode _ _ _ => ⟨"ENCODE", 0x60000000000000000#68, 0xF0000000000000000#68⟩
  | .decode _ _ _ => ⟨"DECODE", 0x80000000000000000#68, 0xF0000000000000000#68⟩
  | .canDecode _ _ => ⟨"CAN_DECODE", 0xA0000000000000000#68, 0xF00000000FFFFFFFF#68⟩
  | .encSize => ⟨"ENC_SIZE", 0xC0000000000000000#68, 0xFFFFFFFFFFFFFFFFF#68⟩
  | .decSize => ⟨"DEC_SIZE", 0xE0000000000000000#68, 0xFFFFFFFFFFFFFFFFF#68⟩

/-- The nine rows of the opcode table. -/
def opcodeTable : List OpcodeRow :=
  [opcodeRow (.edgeR 0), opcodeRow (.edgeF 0), opcodeRow (.read 0), opcodeRow .resetState,
   opcodeRow (.encode 0 0 0), opcodeRow (.decode 0 0 0), opcodeRow (.canDecode 0 0),
   opcodeRow .encSize, opcodeRow .decSize]

/-- The command whose word is the low 68 bits of `w` and whose data ports are zero. -/
def commandOfNat (w : Nat) : Command := ⟨BitVec.ofNat 68 w, 0#40, 0#128⟩

/-- The operation the decoder reads from the low `nbits` bits of `w`, with data ports of zeros. The command word has
68 bits: a number with a bit above them is no command word. -/
def decodeTableWord (nbits w : Nat) : Option Instr :=
  let v := w % 2 ^ nbits
  if v < 2 ^ 68 then (decodeCommand (commandOfNat v)).toOption else none

end Sys2Proof
end

