-- ==== Sys2Proof/Machine/Operands.lean ====
section
/-! DEFINITION. The operand forms: the three views of a frame (R31), the payload bytes (R32), the value a payload stands
for (R112), and Manchester coding (R111). -/

namespace Sys2Proof.Machine

/-- `S<i>`, the bit at stream position `i` of a frame: position 0 is the oldest bit, `S<i> = S[127 - i]` (R31). -/
def streamBit (S : Frame) (i : Fin 128) : Bool := S.getLsbD (127 - i)

/-- The word `Wk` of a frame, `W0 = S[127:96]` (R31). -/
def frameWord (S : Frame) (k : Fin 4) : Word := S.extractLsb' (96 - 32 * k) 32

/-- The byte `bj` of a frame, `b0 = S[127:120]` (R31). -/
def frameByte (S : Frame) (j : Fin 16) : Byte := S.extractLsb' (120 - 8 * j) 8

/-- The frame made of four words (R12, R31). -/
def frameOfWords (w0 w1 w2 w3 : Word) : Frame := w0 ++ w1 ++ w2 ++ w3

/-- The byte `pj` of a payload, `p0` in bits 39 to 32 (R32, R53). -/
def payloadByte (payload : Payload) (j : Fin 5) : Byte := payload.extractLsb' (32 - 8 * j) 8

/-- `v32`: the payload bytes `p0` to `p3` as one big-endian number; `p4` is not read (R112). -/
def value32 (payload : Payload) : Word :=
  payloadByte payload 0 ++ payloadByte payload 1 ++ payloadByte payload 2 ++ payloadByte payload 3

/-- `V35 = v32 * 8`: `v32` top-aligned into 35 bits (R112, decision D12; log 15). -/
def value35 (payload : Payload) : BitVec 35 := value32 payload ++ 0#3

/-- The bits of a value, the bit of greatest weight first. -/
def bitsMsbFirst {n : Nat} (v : BitVec n) : List Bool := (List.range n).map v.getMsbD

/-- `M(b)`: the bit followed by its complement, `M(1) = 10` and `M(0) = 01` (R111). -/
def manchesterPair (b : Bool) : BitVec 2 := if b then 2#2 else 1#2

/-- `Mn(v) = M(v[n-1]) ++ ... ++ M(v[0])` (00_scope.md section 6, R111). -/
def manchester {n : Nat} (v : BitVec n) : BitVec (2 * n) :=
  BitVec.ofNat (2 * n) ((bitsMsbFirst v).foldl (fun acc b => acc * 4 + (manchesterPair b).toNat) 0)

/-- The pair `w[2k+1 : 2k]` of a word, first raw bit more significant (R111, R115). -/
def pairOf (w : Word) (k : Nat) : BitVec 2 := w.extractLsb' (2 * k) 2

/-- `k`, `k - 1`, ..., 0. -/
def countDown : Nat → List Nat
  | 0 => [0]
  | k + 1 => (k + 1) :: countDown k

/-- The 37 pairs that DECODE reads, in stream order: pairs 4 to 0 of `W1`, then 15 to 0 of `W2` and of `W3`
(R115, decision D13; log 16). -/
def valuePairs (S : Frame) : List (BitVec 2) :=
  (countDown 4).map (pairOf (frameWord S 1)) ++ (countDown 15).map (pairOf (frameWord S 2))
    ++ (countDown 15).map (pairOf (frameWord S 3))

end Sys2Proof.Machine
end

