-- ==== Sys2Proof/Config.lean ====
section
/-! DEFINITION. What the spec leaves to the one who builds the block: the open parameters of 00_scope.md R3, R6 and R7. -/

namespace Sys2Proof

/-- The four open parameters (00_scope.md section 4). They are fixed when the block is built (R24).
`ticksMinusOne` is `CLOCKS_PER_US - 1`: its bound is exactly R3's "a positive integer with
`100 * CLOCKS_PER_US < 2^32`" (1 to 42949672). -/
structure Params where
  ticksMinusOne : Fin 42949672
  /-- `OEM_CODE`, bit 6 first on the wire (R6). -/
  oemCode : BitVec 7
  /-- `FORMAT_CODE`, bit 10 first on the wire (R6). -/
  formatCode : BitVec 11
  /-- `FRAME_INIT`, the frame buffer when the block is created (R7). -/
  frameInit : Frame
  deriving DecidableEq, Repr, Inhabited

/-- The parameters of the block of `State.reset`. OPEN: no value is given, so nothing can be proved about one.
Log 4 (CLOCKS_PER_US, OEM_CODE, FORMAT_CODE) and log 5 (FRAME_INIT). -/
opaque Config.params : Params

end Sys2Proof
end

