-- ==== Sys2Proof/Machine/State.lean ====
section
/-! DEFINITION. The state of the block (10_state.md R10), its ports, and the reasons a step can stop. -/

namespace Sys2Proof.Machine

/-- The class of a pulse that is not noise (R14, R75). -/
inductive PulseClass where
  /-- Coded 0 (R75). -/
  | short
  /-- Coded 1 (R75). -/
  | long
  deriving DecidableEq, Repr

/-- The four values of `fault_cause` (R131). Their 2-bit codes are `FatalCause.code` in Flags.lean. -/
inductive FatalCause where
  | none
  | readSize
  | encodeSize
  | decodeSize
  deriving DecidableEq, Repr

/-- The result ports after an operation (R54): a port the operation did not drive carries no value (`none`; log 3). -/
structure Results where
  ok : Option Bool := .none
  frameOut : Option Frame := .none
  wireOut : Option Frame := .none
  payloadOut : Option Payload := .none
  sizeOut : Option Byte := .none
  deriving DecidableEq, Repr

/-- The machine. The first field is the configuration, the next seven are the elements of R10, the last two are the
block's ports. -/
structure State where
  /-- The parameters the block was built with; not state of the block, no operation changes them (R22, R24; log 4). -/
  config : Params
  /-- `pulse_clocks` (R11). -/
  pulseClocks : Word
  /-- `last_pulse_length` (R14). -/
  lastPulseLength : PulseClass
  /-- `pulse_count` (R13); a natural number, "all give the same behaviour" (D7; log 13). -/
  pulseCount : Nat
  /-- `F`, the frame buffer (R12). -/
  frame : Frame
  /-- `ready` (R15). -/
  ready : Bool
  /-- `fault` (R16). -/
  fault : Bool
  /-- `fault_cause` (R16, R131). -/
  faultCause : FatalCause
  /-- What the last operation drove on the result ports (R54; log 3). -/
  out : Results
  /-- The operations issued and not yet taken, first one first (R37, R17; log 1). -/
  issued : List Command
  deriving DecidableEq, Repr

/-- The faults. There is one, the end of a run in a fatal failure: "the step's outcome is *fault*, the faulted state is
never a final state" (R133). -/
inductive Fault where
  /-- Given by `step`, through `outcomeOf`, when the operation raises Fatal or the block is faulted already. It carries the
  state with the latch set that R133 describes, so that `fault` and `fault_cause` can be read off it (R54; log 7).
  Safe: the run stops. -/
  | fatal (latched : State)
  deriving DecidableEq, Repr

/-- The reasons a step has no result. -/
inductive Refusal where
  /-- Given by `exec` for an operation that has no meaning yet (none at present). Safe. -/
  | notModelled (mnemonic : String)
  /-- Given by `step` for a reserved command word (R55: "a model *refuses* it"; log 9). Safe. -/
  | reservedWord (why : Reserved)
  /-- Given by `step` when no operation is issued: the run has ended (R152; log 2). Safe. -/
  | noOperation
  deriving DecidableEq, Repr

/-- The block right after hard reset, built with the parameters `p` (R20): six zeros and `F = FRAME_INIT`; nothing is
driven and nothing is issued yet. -/
def State.created (p : Params) : State where
  config := p
  pulseClocks := 0#32
  lastPulseLength := .short
  pulseCount := 0
  frame := p.frameInit
  ready := false
  fault := false
  faultCause := .none
  out := {}
  issued := []

/-- The machine after reset (R20), with the open parameters. -/
def State.reset : State := State.created Config.params

end Sys2Proof.Machine
end

