-- ==== Sys2Proof/Machine/Flags.lean ====
section
/-! DEFINITION. What the block computes as a condition: thresholds and classes (R3, R4, R74, R75), the detector (R116), the
parity bits (R113), the size preconditions (R90, R103, R104) and the fault codes (R131). -/

namespace Sys2Proof.Machine

/-- `CLOCKS_PER_US`, 1 to 42949672 (R3). -/
def clocksPerUs (p : Params) : Nat := p.ticksMinusOne.val + 1

/-- `MIN_CLOCKS = (64 - 20) * CLOCKS_PER_US` (R3). -/
def minClocks (p : Params) : Nat := (64 - 20) * clocksPerUs p

/-- `MAX_CLOCKS = (80 + 20) * CLOCKS_PER_US` (R3). -/
def maxClocks (p : Params) : Nat := (80 + 20) * clocksPerUs p

/-- `MID_CLOCKS = ((64 + 80) / 2) * CLOCKS_PER_US` (R3). -/
def midClocks (p : Params) : Nat := ((64 + 80) / 2) * clocksPerUs p

/-- A long run commits when the count is above this (R4). -/
def fullLong : Nat := 4
/-- A short run commits when the count is above this (R4). -/
def fullShort : Nat := 5
/-- A long run that ended commits when the count is above this (R4). -/
def tailLong : Nat := 2
/-- A short run that ended commits when the count is above this (R4). -/
def tailShort : Nat := 3

/-- The class of a pulse width, "one of {short, long, noise}" (R18). -/
inductive Classification where
  | noise
  | pulse (c : PulseClass)
  deriving DecidableEq, Repr

/-- `Classify(t)`: noise unless strictly between the outer thresholds (R74), then short below the middle one and
long otherwise (R75). The comparisons are of exact unsigned numbers (log 24). -/
def classify (p : Params) (t : Word) : Classification :=
  if minClocks p < t.toNat ∧ t.toNat < maxClocks p then
    if t.toNat < midClocks p then .pulse .short else .pulse .long
  else .noise

/-- The raw bit that a class stands for: short is 0, long is 1 (R75). -/
def PulseClass.bit : PulseClass → Bool
  | .short => false
  | .long => true

/-- `PREAMBLE = 00011101` (R5). -/
def preamble : Byte := 0x1D#8

/-- `CanDecode(S)`: the preamble at `W0[21:14]` and the raw OEM field at `W0[13:0]`, and nothing else
(R116, R118; decision D15, log 18). -/
def canDecode (p : Params) (S : Frame) : Bool :=
  (frameWord S 0).extractLsb' 14 8 == preamble && (frameWord S 0).extractLsb' 0 14 == manchester p.oemCode

/-- `xor_reduce(v)`: whether the number of one bits is odd (00_scope.md section 6). -/
def xorReduce {n : Nat} (v : BitVec n) : Bool := (bitsMsbFirst v).foldl xor false

/-- `ep`: the parity of `V35[34:17]` (R113). -/
def evenParity (v : BitVec 35) : Bool := xorReduce (v.extractLsb' 17 18)

/-- `op`: one more than the parity of `V35[17:0]` (R113). -/
def oddParity (v : BitVec 35) : Bool := xor true (xorReduce (v.extractLsb' 0 18))

/-- `ENCODED_SIZE` in bytes (R5). -/
def encodedSize : Nat := 16
/-- `DECODED_SIZE` in bytes (R5). -/
def decodedSize : Nat := 5
/-- `FRAME_WORDS` (R5). -/
def frameWords : Nat := 4

/-- READ's precondition is violated: `min_size < 4` (R90). -/
def readTooSmall (minSize : Word) : Bool := minSize.toNat < frameWords

/-- ENCODE's precondition is violated: `payload_len < 5` or `wire_cap < 16` (R103). -/
def encodeTooSmall (payloadLen wireCap : Word) : Bool :=
  payloadLen.toNat < decodedSize || wireCap.toNat < encodedSize

/-- DECODE's precondition is violated: `wire_len < 16` or `payload_cap < 5` (R103). -/
def decodeTooSmall (wireLen payloadCap : Word) : Bool :=
  wireLen.toNat < encodedSize || payloadCap.toNat < decodedSize

/-- CAN_DECODE's operand is too short to be looked at: `wire_len < 16` (R104; decision D16, log 19). -/
def wireTooShort (wireLen : Word) : Bool := wireLen.toNat < encodedSize

/-- The 2-bit code of `fault_cause` (R131; log 25). -/
def FatalCause.code : FatalCause → BitVec 2
  | .none => 0#2
  | .readSize => 1#2
  | .encodeSize => 2#2
  | .decodeSize => 3#2

end Sys2Proof.Machine
end

