-- ==== Sys2Proof/Machine/Ops.lean ====
section
/-! DEFINITION. The named operations over the state: its updates, raising Fatal and what follows it, hard reset, and the
port on which operations are issued. -/

namespace Sys2Proof.Machine

/-- Drive the result ports (R54). -/
def State.withOut (o : Results) (s : State) : State := { s with out := o }

/-- Write `pulse_clocks` (R11). -/
def State.withPulseClocks (t : Word) (s : State) : State := { s with pulseClocks := t }

/-- Write `last_pulse_length` and `pulse_count` (R13, R14). -/
def State.withRun (last : PulseClass) (count : Nat) (s : State) : State :=
  { s with lastPulseLength := last, pulseCount := count }

/-- Write the frame buffer (R12). -/
def State.withFrame (S : Frame) (s : State) : State := { s with frame := S }

/-- Write `ready` (R15). -/
def State.withReady (b : Bool) (s : State) : State := { s with ready := b }

/-- Latch a fatal failure (R16). -/
def State.withFatal (cause : FatalCause) (s : State) : State := { s with fault := true, faultCause := cause }

/-- Replace the list of operations not yet taken (R37). -/
def State.withIssued (cs : List Command) (s : State) : State := { s with issued := cs }

/-- The result ports carry no value: nothing is driven (R54, decision D18; log 3). -/
def quiet (s : State) : State := s.withOut {}

/-- `raise Fatal(cause)`: the operation stops with no state written and no result driven; then `fault <- 1` and
`fault_cause <- cause`; all other state keeps its value (R133; log 7). -/
def raiseFatal (cause : FatalCause) (s : State) : State := (quiet s).withFatal cause

/-- What a model answers for the state an operation leaves: a state with `fault = 1` is no final state, the outcome is
*fault* (R133, decision D17; log 7). -/
def outcomeOf : Host.Outcome State Fault Refusal → Host.Outcome State Fault Refusal
  | .next s => if s.fault then .fault (.fatal s) else .next s
  | .fault r => .fault r
  | .refused r => .refused r

/-- Hard reset, the only return from a fatal failure (R135): the values of R20, whatever the state; the configuration and
what the environment has issued are not the block's (R22). No step performs it (R165; log 22). -/
def State.hardReset (s : State) : State := (State.created s.config).withIssued s.issued

/-- Perform an operation: with `fault = 1` "whatever is issued changes no state and gives no result" (R134; log 8);
otherwise the operation acts on a state in which no result is driven yet. -/
def operate (op : State → State) (s : State) : State := if s.fault then quiet s else op (quiet s)

/-- An operation with a size precondition, "checked once at entry" (R133, R136). -/
def checkSize (tooSmall : Bool) (cause : FatalCause) (op : State → State) (s : State) : State :=
  if tooSmall then raiseFatal cause s else op s

/-- The environment issues an operation, after those issued before (R37, R165). -/
def State.issue (c : Command) (s : State) : State := s.withIssued (s.issued ++ [c])

/-- The next operation on the command port and the state in which it has been taken; none when the list is used up
(R37, R152). -/
def takeCommand (s : State) : Option (Command × State) :=
  match s.issued with
  | [] => none
  | c :: rest => some (c, s.withIssued rest)

/-- Put a command where `takeCommand` takes the next one, in place of the one that stood there. -/
def State.withCommand (c : Command) (s : State) : State := s.withIssued (c :: s.issued.tail)

/-- The level outputs, which "show state at all times": `ready`, `fault`, and `fault_cause` with its 2-bit code
(R54; decision D22, log 27). -/
def State.levels (s : State) : Bool × Bool × BitVec 2 := (s.ready, s.fault, s.faultCause.code)

end Sys2Proof.Machine
end

