-- ==== Sys2Proof/Machine/Codec.lean ====
section
/-! DEFINITION. The codec operations (42_codec_contract.md, 43_hid_h10304.md). They are pure functions of their operands and
the parameters; only the results and, on a size violation, the fault latch are written (R100). -/

namespace Sys2Proof.Machine

/-- The frame that ENCODE builds: slack, preamble, OEM, format, even parity, value, odd parity
(R110, R114; decisions D10 and D11, log 14). -/
def encodeFrame (p : Params) (payload : Payload) : Frame :=
  0#10 ++ preamble ++ manchester p.oemCode ++ manchester p.formatCode
    ++ manchesterPair (evenParity (value35 payload)) ++ manchester (value35 payload)
    ++ manchesterPair (oddParity (value35 payload))

/-- One pair of DECODE's loop: `01` appends 0, `10` appends 1, `00` and `11` are skipped and "do not advance the
output" (R115). -/
def acceptPair (acc : BitVec 64) (pair : BitVec 2) : BitVec 64 :=
  if pair = 1#2 then acc * 2#64
  else if pair = 2#2 then acc * 2#64 + 1#64
  else acc

/-- What DECODE recovers from a frame: the pairs accumulated from 0, the last recovered bit dropped, the low 40 bits
(R115; decision D14, log 17). -/
def decodeFrame (S : Frame) : Payload :=
  (((valuePairs S).foldl acceptPair 0#64) / 2#64).setWidth 40

/-- CAN_DECODE's answer (R104, R116). -/
def canDecodeAnswer (p : Params) (wireLen : Word) (wire : Frame) : Bool :=
  if wireTooShort wireLen then false else canDecode p wire

/-- ENCODE (R103, R114). -/
def execEncode (payloadLen wireCap : Word) (payload : Payload) (s : State) : Host.Outcome State Fault Refusal :=
  .next (operate (checkSize (encodeTooSmall payloadLen wireCap) .encodeSize fun s =>
    s.withOut { wireOut := some (encodeFrame s.config payload) }) s)

/-- DECODE (R103, R115). -/
def execDecode (wireLen payloadCap : Word) (wire : Frame) (s : State) : Host.Outcome State Fault Refusal :=
  .next (operate (checkSize (decodeTooSmall wireLen payloadCap) .decodeSize fun s =>
    s.withOut { payloadOut := some (decodeFrame wire) }) s)

/-- CAN_DECODE never fails (R104, R116). -/
def execCanDecode (wireLen : Word) (wire : Frame) (s : State) : Host.Outcome State Fault Refusal :=
  .next (operate (fun s => s.withOut { ok := some (canDecodeAnswer s.config wireLen wire) }) s)

/-- ENC_SIZE (R101). -/
def execEncSize (s : State) : Host.Outcome State Fault Refusal :=
  .next (operate (fun s => s.withOut { sizeOut := some (BitVec.ofNat 8 encodedSize) }) s)

/-- DEC_SIZE (R102). -/
def execDecSize (s : State) : Host.Outcome State Fault Refusal :=
  .next (operate (fun s => s.withOut { sizeOut := some (BitVec.ofNat 8 decodedSize) }) s)

end Sys2Proof.Machine
end

