-- ==== Sys2Proof/Machine/Consumer.lean ====
section
/-! DEFINITION. The consumer operations READ and RESET_STATE (41_consumer_ops.md). -/

namespace Sys2Proof.Machine

/-- READ after its size check: with `ready = 1` the frame is driven, `ok = 1`, and `ready` is cleared; otherwise
`ok = 0`, `frame_out` is not driven and nothing changes (R90). -/
def readFrame (s : State) : State :=
  if s.ready then (s.withReady false).withOut { ok := some true, frameOut := some s.frame }
  else s.withOut { ok := some false }

/-- RESET_STATE writes exactly four elements; the frame buffer is not cleared (R91). -/
def clearRun (s : State) : State := ((s.withRun .short 0).withReady false).withPulseClocks 0#32

/-- READ (R90). -/
def execRead (minSize : Word) (s : State) : Host.Outcome State Fault Refusal :=
  .next (operate (checkSize (readTooSmall minSize) .readSize readFrame) s)

/-- RESET_STATE (R91). -/
def execResetState (s : State) : Host.Outcome State Fault Refusal :=
  .next (operate clearRun s)

end Sys2Proof.Machine
end

