-- ==== Sys2Proof/Machine/Edge.lean ====
section
/-! DEFINITION. The edge operations EDGE.R and EDGE.F (40_pulse_decoder.md). -/

namespace Sys2Proof.Machine

/-- `PulseSum(d)`: the pending half-pulse plus the duration, modulo `2^32` (R73; decision D5, log 11). -/
def pulseSum (s : State) (d : Word) : Word := s.pulseClocks + d

/-- What a pulse that is not noise does to a run: the new class and count, and the raw bit it commits, if any. -/
structure RunResult where
  last : PulseClass
  count : Nat
  commit : Option Bool
  deriving DecidableEq, Repr

/-- `RunUpdate`, same class: the comparison uses the incremented count (R76). -/
def sameClass (c : PulseClass) (count : Nat) : RunResult :=
  if c = .long ∧ fullLong < count + 1 then ⟨c, 0, some true⟩
  else if c = .short ∧ fullShort < count + 1 then ⟨c, 0, some false⟩
  else ⟨c, count + 1, none⟩

/-- The bit of a run that has just ended, if it is long enough (R77). -/
def tailBit (last : PulseClass) (count : Nat) : Option Bool :=
  if last = .long ∧ tailLong < count then some true
  else if last = .short ∧ tailShort < count then some false
  else none

/-- `RunUpdate(c)` (R76, R77). -/
def runUpdate (last : PulseClass) (count : Nat) (c : PulseClass) : RunResult :=
  if c = last then sameClass c count else ⟨c, 0, tailBit last count⟩

/-- `F <- (F * 2 + bit) mod 2^128`: every bit moves one stream position down, the oldest is lost (R78). -/
def shiftIn (S : Frame) (b : Bool) : Frame := S.shiftConcat b

/-- `Commit(bit)`: the shift (R78), then the detector on the new buffer, which sets `ready` if it is true (R79). -/
def commitBit (b : Bool) (s : State) : State :=
  let S := shiftIn s.frame b
  (s.withFrame S).withReady (s.ready || canDecode s.config S)

/-- Commit the bit of a run, if there is one. -/
def commitIfAny (b : Option Bool) (s : State) : State :=
  match b with
  | none => s
  | some b => commitBit b s

/-- `Gate`: with `ready = 1` an edge event is dropped whole (R72). -/
def gate (op : State → State) (s : State) : State := if s.ready then s else op s

/-- A rising edge stores its duration as the pending half-pulse (R70). -/
def risingEdge (d : Word) (s : State) : State := s.withPulseClocks d

/-- A pulse of class `c`: the run is updated and its bit, if any, is committed (R76 to R79). -/
def acceptPulse (c : PulseClass) (s : State) : State :=
  let r := runUpdate s.lastPulseLength s.pulseCount c
  commitIfAny r.commit (s.withRun r.last r.count)

/-- A falling edge: the sum is kept and classified; noise leaves the run state untouched (R71, R73, R74). -/
def fallingEdge (d : Word) (s : State) : State :=
  let t := pulseSum s d
  match classify s.config t with
  | .noise => s.withPulseClocks t
  | .pulse c => acceptPulse c (s.withPulseClocks t)

/-- EDGE.R (R70). -/
def execEdgeR (d : Word) (s : State) : Host.Outcome State Fault Refusal :=
  .next (operate (gate (risingEdge d)) s)

/-- EDGE.F (R71). -/
def execEdgeF (d : Word) (s : State) : Host.Outcome State Fault Refusal :=
  .next (operate (gate (fallingEdge d)) s)

end Sys2Proof.Machine
end

