-- ==== Sys2Proof/Machine/Dispatch.lean ====
section
/-! DEFINITION. One arm per operation. -/

namespace Sys2Proof.Machine

def exec (i : Instr) (s : State) : Host.Outcome State Fault Refusal :=
  match i with
  | .edgeR d => Sys2Proof.Machine.execEdgeR d s
  | .edgeF d => Sys2Proof.Machine.execEdgeF d s
  | .read minSize => Sys2Proof.Machine.execRead minSize s
  | .resetState => Sys2Proof.Machine.execResetState s
  | .encode payloadLen wireCap payload => Sys2Proof.Machine.execEncode payloadLen wireCap payload s
  | .decode wireLen payloadCap wire => Sys2Proof.Machine.execDecode wireLen payloadCap wire s
  | .canDecode wireLen wire => Sys2Proof.Machine.execCanDecode wireLen wire s
  | .encSize => Sys2Proof.Machine.execEncSize s
  | .decSize => Sys2Proof.Machine.execDecSize s

end Sys2Proof.Machine
end

