-- ==== Sys2Proof/Machine/Block.lean ====
section
/-! DEFINITION. What the block does with the next issued command, its fault latch included. -/

namespace Sys2Proof.Machine

/-- The block takes one command. The order of tests is R136's: a faulted block does nothing, whatever the word is (R134);
a reserved word is refused (R55); then the operation with its size precondition and its effect. With nothing issued the
run has ended (R152; log 2). -/
def perform (s : State) : Host.Outcome State Fault Refusal :=
  match takeCommand s with
  | none => .refused .noOperation
  | some (c, s') =>
    if s'.fault then .next (quiet s')
    else match decodeCommand c with
      | .error why => .refused (.reservedWord why)
      | .ok i => exec i s'

end Sys2Proof.Machine
end

