-- ==== Sys2Proof/Machine/Step.lean ====
section
/-! DEFINITION. One step of the model: what the block does with the next command, and the outcome of that. -/

namespace Sys2Proof.Machine

/-- One step. A fatal failure ends the run: the outcome of a step that leaves `fault = 1` is *fault* (R133, decision D17;
log 7). -/
def step (s : State) : Host.Outcome State Fault Refusal := outcomeOf (perform s)

/-- `s` with the low `nbits` bits of `w` as the next command word and zeros on the data ports (log 23). -/
def State.withFetchWord (s : State) (nbits w : Nat) : State := s.withCommand (commandOfNat (w % 2 ^ nbits))

end Sys2Proof.Machine
end

