-- ==== Sys2Proof/Machine/Macros.lean ====
section
/-! DEFINITION. The notation of 30_encoding.md section 5: a trace line (R56) and the six macros (R57). They expand to the
nine operations and add no behaviour (decision D3; log 28). -/

namespace Sys2Proof.Machine

/-- One line of a trace: "the mnemonic followed by its numeric operands in the order `a`, `b`, ... then any data operand
as ... bytes" (R56). -/
structure TraceLine where
  mnemonic : String
  operands : List Nat
  data : List Byte
  deriving DecidableEq, Repr

/-- The bytes of a frame, `b0` first (R31). -/
def frameBytes (S : Frame) : List Byte := (List.finRange 16).map (frameByte S)

/-- The bytes of a payload, `p0` first (R32). -/
def payloadBytes (payload : Payload) : List Byte := (List.finRange 5).map (payloadByte payload)

/-- The numeric operands of an operation, in the order `a`, `b` (R51, R56). -/
def numericOperands : Instr → List Nat
  | .edgeR d => [d.toNat]
  | .edgeF d => [d.toNat]
  | .read minSize => [minSize.toNat]
  | .encode payloadLen wireCap _ => [payloadLen.toNat, wireCap.toNat]
  | .decode wireLen payloadCap _ => [wireLen.toNat, payloadCap.toNat]
  | .canDecode wireLen _ => [wireLen.toNat]
  | .resetState => []
  | .encSize => []
  | .decSize => []

/-- The data operand of an operation as bytes (R56). -/
def dataOperand : Instr → List Byte
  | .encode _ _ payload => payloadBytes payload
  | .decode _ _ wire => frameBytes wire
  | .canDecode _ wire => frameBytes wire
  | .edgeR _ => []
  | .edgeF _ => []
  | .read _ => []
  | .resetState => []
  | .encSize => []
  | .decSize => []

/-- The trace line of an operation (R56). -/
def traceLine (i : Instr) : TraceLine := ⟨(opcodeRow i).mnemonic, numericOperands i, dataOperand i⟩

/-- `PULSE w`: `EDGE.R floor(w/2)`, then `EDGE.F w - floor(w/2)` (R57). -/
def macroPulse (w : Word) : List Instr := [.edgeR (w / 2#32), .edgeF (w - w / 2#32)]

/-- `SHORT`: a pulse at the nominal short width (R57). -/
def macroShort (p : Params) : List Instr := macroPulse (BitVec.ofNat 32 (64 * clocksPerUs p))

/-- `LONG`: a pulse at the nominal long width (R57). -/
def macroLong (p : Params) : List Instr := macroPulse (BitVec.ofNat 32 (80 * clocksPerUs p))

/-- `BIT0`: `SHORT` six times (R57). -/
def macroBit0 (p : Params) : List Instr := (List.replicate 6 (macroShort p)).flatten

/-- `BIT1`: `LONG` five times (R57). -/
def macroBit1 (p : Params) : List Instr := (List.replicate 5 (macroLong p)).flatten

/-- `S<i..j>`: the raw bits at stream positions `i` to `j - 1`, oldest first (00_scope.md section 6). -/
def rawBits (S : Frame) (i j : Nat) : List Bool :=
  ((List.finRange 128).filter fun k => decide (i ≤ k.val ∧ k.val < j)).map (streamBit S)

/-- `FRAMEBITS S<i..j>`: `BIT0` or `BIT1` for each raw bit, oldest first (R57). -/
def macroFrameBits (p : Params) (S : Frame) (i j : Nat) : List Instr :=
  (rawBits S i j).flatMap fun b => if b then macroBit1 p else macroBit0 p

end Sys2Proof.Machine
end

