-- ==== Sys2Proof/Safety.lean ====
section
/-! DEFINITION. What counts as a safe run, the invariant, and the terms in which the statements speak of several operations:
interleavings of the two agents (R8) and the run accounting of a pulse train (R81). -/

namespace Sys2Proof.Safety

open Sys2Proof.Machine

/-- The seven elements that are "the block's whole state" (R10). -/
def elements (s : State) : Word × PulseClass × Nat × Frame × Bool × Bool × FatalCause :=
  (s.pulseClocks, s.lastPulseLength, s.pulseCount, s.frame, s.ready, s.fault, s.faultCause)

/-- The invariant of the block: `ready` only over a frame that satisfies the detector (R19), the bounds of the count
(R13), and `fault_cause` 0 exactly while `fault = 0` (R131). -/
structure Inv (s : State) : Prop where
  ready_detects : s.ready = true → canDecode s.config s.frame = true
  count_le_five : s.pulseCount ≤ 5
  long_count_le_four : s.lastPulseLength = .long → s.pulseCount ≤ 4
  cause_iff_fault : s.faultCause = .none ↔ s.fault = false

/-- `k` operations from `s` run without a fatal failure, the state at the end included. -/
def SafeRun (k : Nat) (s : State) : Prop := ∃ t, core.run k s = .next t ∧ t.fault = false

/-- The block apart from the outcomes that a model gives: a machine that takes operations in its faulted state too, as
R134 describes it ("if it does, they are the identity"; log 8). -/
def block : Host.Core := { State := State, Fault := Fault, Refusal := Refusal, step := perform, reset := State.reset }

/-- `zs` is an interleaving of `xs` and `ys`, "one whole operation at a time" (R8). -/
inductive Interleaves {α : Type} : List α → List α → List α → Prop where
  | nil : Interleaves [] [] []
  | left {x xs ys zs} : Interleaves xs ys zs → Interleaves (x :: xs) ys (x :: zs)
  | right {y xs ys zs} : Interleaves xs ys zs → Interleaves xs (y :: ys) (y :: zs)

/-- An operation of the producer (R8). -/
def isEdge : Instr → Bool
  | .edgeR _ => true
  | .edgeF _ => true
  | .read _ => false
  | .resetState => false
  | .encode _ _ _ => false
  | .decode _ _ _ => false
  | .canDecode _ _ => false
  | .encSize => false
  | .decSize => false

/-- A codec operation (R100). -/
def isCodec : Instr → Bool
  | .encode _ _ _ => true
  | .decode _ _ _ => true
  | .canDecode _ _ => true
  | .encSize => true
  | .decSize => true
  | .edgeR _ => false
  | .edgeF _ => false
  | .read _ => false
  | .resetState => false

/-- The fatal cause of an operation, by R131's table: none where its sizes suffice or it has no precondition. -/
def fatalCauseOf : Instr → FatalCause
  | .read minSize => if minSize.toNat < 4 then .readSize else .none
  | .encode payloadLen wireCap _ => if payloadLen.toNat < 5 ∨ wireCap.toNat < 16 then .encodeSize else .none
  | .decode wireLen payloadCap _ => if wireLen.toNat < 16 ∨ payloadCap.toNat < 5 then .decodeSize else .none
  | .edgeR _ => .none
  | .edgeF _ => .none
  | .resetState => .none
  | .canDecode _ _ => .none
  | .encSize => .none
  | .decSize => .none

/-- What a list of pulses that are not noise does to a run: the class and count at the end, and the bits committed. -/
structure RunTrace where
  last : PulseClass
  count : Nat
  bits : List Bool
  deriving DecidableEq, Repr

/-- The run accounting: the rules R76 and R77 applied to a list of classes. -/
def feed (last : PulseClass) (count : Nat) : List PulseClass → RunTrace
  | [] => ⟨last, count, []⟩
  | c :: cs =>
    let r := runUpdate last count c
    let t := feed r.last r.count cs
    ⟨t.last, t.count, r.commit.toList ++ t.bits⟩

/-- The classes of a list of pulses, each a rising and a falling duration; noise pulses neither extend nor break a run
and leave no class (R74). -/
def classesOf (p : Params) (pulses : List (Word × Word)) : List PulseClass :=
  pulses.filterMap fun w => match classify p (w.1 + w.2) with
    | .noise => none
    | .pulse c => some c

/-- The two edge operations of a pulse, as commands. -/
def pulseCommands (w : Word × Word) : List Command := [encodeCommand (.edgeR w.1), encodeCommand (.edgeF w.2)]

/-- The pulses that stand for a raw bit: 5 long or 6 short (R57, R81). -/
def pulsesOfBit (b : Bool) : List PulseClass := if b then List.replicate 5 .long else List.replicate 6 .short

/-- The number of equal pulses that commit one bit: 6 short or 5 long (R81). -/
def fullRun : PulseClass → Nat
  | .short => 6
  | .long => 5

/-- The least leftover of an ended run that still commits a bit: 4 short or 3 long (R81). -/
def tailRun : PulseClass → Nat
  | .short => 4
  | .long => 3

end Sys2Proof.Safety
end

