-- ==== Sys2Proof/Certificates/Slice0/Obligations.lean ====
section
/-! DEFINITION. The statements for the provers, in the order of the spec's files. In every docstring R<n> is the rule of
spec/ that the statement formalises, D<n> a decision of spec/92_eei_decisions.md that it rests on: a choice of the spec or
of this model, not of the document, logged in notes/assumptions/ under
D1: 10; D2: 9; D3: 28; D4: 20; D5: 11; D6: 12; D7: 13; D8: 5 and 6; D9: 4 and 24; D10: 4 and 14; D11: 14; D12: 15;
D13: 16; D14: 17; D15: 18; D16: 19; D17: 7, 8 and 25; D18: 3; D19: 26; D20: 20; D21: 21; D22: 27; D24: 22. -/

open Sys2Proof Sys2Proof.Machine Sys2Proof.Safety

/-! ## Parameters and reset -/

/-- R3 (D9): the parameter `CLOCKS_PER_US` takes exactly the positive values with `100 * CLOCKS_PER_US < 2^32`, and the
thresholds are 44, 72 and 100 times it. -/
def Obligations.ThresholdsFollowClocksPerUs : Prop :=
  (∀ p : Params, 0 < clocksPerUs p ∧ 100 * clocksPerUs p < 2 ^ 32 ∧ minClocks p = 44 * clocksPerUs p ∧
    midClocks p = 72 * clocksPerUs p ∧ maxClocks p = 100 * clocksPerUs p) ∧
  ∀ n : Nat, 0 < n → 100 * n < 2 ^ 32 → ∃ p : Params, clocksPerUs p = n

/-- R20 (D8; logs 5, 6 and 22): hard reset puts zeros into six elements and `FRAME_INIT` into `F`, whatever the parameters are and
whatever the state was; `State.reset` is that state for the open parameters. That hard reset keeps the configuration and
what has been issued is the model's choice (log 22). -/
def Obligations.HardResetValues : Prop :=
  (∀ p : Params, elements (State.created p) = (0#32, .short, 0, p.frameInit, false, false, .none)) ∧
  State.reset = State.created Config.params ∧
  ∀ s : State, elements s.hardReset = (0#32, .short, 0, s.config.frameInit, false, false, .none) ∧
    s.hardReset.config = s.config ∧ s.hardReset.issued = s.issued

/-! ## The command word -/

/-- Words of spec/95_test_vectors.md section 2, one or two of every operation, are decoded as that table says. -/
def Obligations.ListedCommandWordsDecode : Prop :=
  decodeTableWord 72 0x10000080000000000 = some (.edgeR 2048#32) ∧
  decodeTableWord 72 0x00000080000000000 = some (.edgeF 2048#32) ∧
  decodeTableWord 72 0x0FFFFFFFF00000000 = some (.edgeF 4294967295#32) ∧
  decodeTableWord 72 0x20000000400000000 = some (.read 4#32) ∧
  decodeTableWord 72 0x40000000000000000 = some .resetState ∧
  decodeTableWord 72 0x60000000500000010 = some (.encode 5#32 16#32 0#40) ∧
  decodeTableWord 72 0x80000000F00000005 = some (.decode 15#32 5#32 0#128) ∧
  decodeTableWord 72 0xA0000001000000000 = some (.canDecode 16#32 0#128) ∧
  decodeTableWord 72 0xC0000000000000000 = some .encSize ∧
  decodeTableWord 72 0xE0000000000000000 = some .decSize ∧
  decodeTableWord 72 0x20000000400000001 = none ∧
  decodeTableWord 72 0x50000000000000000 = none

/-- R51, R53 (D1): decoding the command that encodes an operation gives it back, for all nine operations and every value
of every operand, data operands included. -/
def Obligations.DecodeInvertsEncode : Prop := ∀ i : Instr, decodeCommand (encodeCommand i) = .ok i

/-- R51, R55 (D1, D2): the other direction. A command that decodes is the encoding of its operation, up to the data ports
that R51 does not list for it. -/
def Obligations.EncodeInvertsDecode : Prop :=
  ∀ (c : Command) (i : Instr), decodeCommand c = .ok i →
    (encodeCommand i).cmd = c.cmd ∧
    ((encodeCommand i).payloadIn = c.payloadIn ∨ ∀ n m P, i ≠ .encode n m P) ∧
    ((encodeCommand i).wireIn = c.wireIn ∨ ((∀ n m S, i ≠ .decode n m S) ∧ ∀ n S, i ≠ .canDecode n S))

/-- R55 (D2): the reserved words are those with a nonzero must-be-zero field, the fields being read off the word by
division (R50). -/
def Obligations.ReservedWordsAreTheNonzeroFields : Prop :=
  ∀ c : Command,
    let op := c.cmd.toNat / 2 ^ 65
    let r := c.cmd.toNat / 2 ^ 64 % 2
    let a := c.cmd.toNat / 2 ^ 32 % 2 ^ 32
    let b := c.cmd.toNat % 2 ^ 32
    (∃ why, decodeCommand c = .error why) ↔
      (b ≠ 0 ∧ (op = 0 ∨ op = 1 ∨ op = 5)) ∨ ((a ≠ 0 ∨ b ≠ 0) ∧ (op = 2 ∨ op = 6 ∨ op = 7)) ∨ (r = 1 ∧ op ≠ 0)

/-- R51 and spec/opcode_table.json (D1): a word that decodes belongs to exactly one row of the table, that of its
operation; a reserved word belongs to none. -/
def Obligations.OpcodeTableIsUnambiguous : Prop :=
  (∀ (c : Command) (i : Instr), decodeCommand c = .ok i → (opcodeTable.filter (·.covers c.cmd)) = [opcodeRow i]) ∧
  ∀ (c : Command) (why : Reserved), decodeCommand c = .error why → (opcodeTable.filter (·.covers c.cmd)) = []

/-! ## The step -/

/-- R37, R136 (D17; logs 1 and 7): with `fault = 0`, when the next issued command decodes to an operation, the step is the
outcome of that operation on the state in which the command has been taken from the list. -/
def Obligations.StepPerformsTheNextOperation : Prop :=
  ∀ (s : State) (c : Command) (rest : List Command) (i : Instr),
    s.issued = c :: rest → s.fault = false → decodeCommand c = .ok i →
      step s = outcomeOf (exec i { s with issued := rest })

/-- R136 (D2, D17; logs 2, 7, 8, 9): the order of tests on one command. First the fault latch, before the word is looked
at; then the reserved word; then the size precondition, whatever `ready` is. The first and the last are the outcome
*fault*, which carries the faulted state. With nothing issued there is no step. -/
def Obligations.StepTestsInOrder : Prop :=
  ∀ (s : State) (c : Command) (rest : List Command), s.issued = c :: rest →
    (s.fault = true → step s = .fault (.fatal { s with issued := rest, out := {} })) ∧
    (s.fault = false → ∀ why, decodeCommand c = .error why → step s = .refused (.reservedWord why)) ∧
    (s.fault = false → ∀ i, decodeCommand c = .ok i → fatalCauseOf i ≠ .none →
      step s = .fault (.fatal { s with issued := rest, out := {}, fault := true, faultCause := fatalCauseOf i })) ∧
    step { s with issued := [] } = .refused .noOperation

/-- R39, R140 (logs 7 and 8): no operation blocks. Every operation answers a next state in every state, and none touches
the configuration or what has been issued. That `exec` answers a next state also where it raises Fatal (log 7) and in a
faulted block (log 8) is the model's choice; the step's outcome is *fault* there (`RunEndsAtFatal`). -/
def Obligations.EveryOperationAnswers : Prop :=
  ∀ (i : Instr) (s : State), ∃ t, exec i s = .next t ∧ t.config = s.config ∧ t.issued = s.issued

/-! ## The edge operations -/

/-- R70: a rising edge stores its duration and changes nothing else; with `ready = 1` it is lost. (What the result ports
carry is not this rule's: `ResultsAreDrivenAsListed`.) -/
def Obligations.RisingEdgeStoresDuration : Prop :=
  ∀ (s : State) (d : Word), s.fault = false →
    (encodeCommand (.edgeR d)).cmd.toNat = 2 ^ 64 + d.toNat * 2 ^ 32 ∧
    ∃ o : Results,
      exec (.edgeR d) s = .next { s with pulseClocks := if s.ready then s.pulseClocks else d, out := o }

/-- R72: with `ready = 1` both edge operations write nothing, not even `pulse_clocks`. -/
def Obligations.EdgesAreDroppedWhileReady : Prop :=
  ∀ (s : State) (d : Word), s.fault = false → s.ready = true →
    (∃ o : Results, exec (.edgeR d) s = .next { s with out := o }) ∧
    ∃ o : Results, exec (.edgeF d) s = .next { s with out := o }

/-- R154, R72: from a state with `ready = 1`, any sequence of edge operations is lost, however long it is. -/
def Obligations.BackpressureLosesEveryEdge : Prop :=
  ∀ (s : State) (edges : List Instr) (rest : List Command), s.fault = false → s.ready = true →
    (∀ i ∈ edges, isEdge i = true) → s.issued = edges.map encodeCommand ++ rest →
    ∃ t, core.run edges.length s = .next t ∧ elements t = elements s ∧ t.config = s.config ∧ t.issued = rest

/-- R73, R74 (D5; log 11): a falling edge whose sum with the pending half-pulse, modulo `2^32`, is not strictly between
`MIN_CLOCKS` and `MAX_CLOCKS` writes the sum to `pulse_clocks` and nothing else. -/
def Obligations.NoiseLeavesTheRunUntouched : Prop :=
  ∀ (s : State) (d : Word), s.fault = false → s.ready = false →
    let t := (s.pulseClocks.toNat + d.toNat) % 2 ^ 32
    ¬ (44 * clocksPerUs s.config < t ∧ t < 100 * clocksPerUs s.config) →
    exec (.edgeF d) s = .next { s with pulseClocks := BitVec.ofNat 32 t, out := {} }

/-- R71, R73 to R79 (D5, D6; logs 11, 12): a falling edge whose sum is inside the window. The class `c`, the committed
bit and the new count are those of the rules, and all the rest of the state is unchanged. -/
def Obligations.FallingEdgeUpdatesTheRun : Prop :=
  ∀ (s : State) (d : Word), s.fault = false → s.ready = false →
    let t := (s.pulseClocks.toNat + d.toNat) % 2 ^ 32
    44 * clocksPerUs s.config < t → t < 100 * clocksPerUs s.config →
    let c := if t < 72 * clocksPerUs s.config then PulseClass.short else PulseClass.long
    let bit :=
      if c = s.lastPulseLength then
        if c = .long ∧ s.pulseCount + 1 > 4 then some true
        else if c = .short ∧ s.pulseCount + 1 > 5 then some false else none
      else if s.lastPulseLength = .long ∧ s.pulseCount > 2 then some true
      else if s.lastPulseLength = .short ∧ s.pulseCount > 3 then some false else none
    let count := if c = s.lastPulseLength ∧ bit = none then s.pulseCount + 1 else 0
    let S := match bit with
      | none => s.frame
      | some b => BitVec.ofNat 128 ((s.frame.toNat * 2 + b.toNat) % 2 ^ 128)
    exec (.edgeF d) s = .next { s with
      pulseClocks := BitVec.ofNat 32 t, lastPulseLength := c, pulseCount := count, frame := S,
      ready := bit.isSome && canDecode s.config S, out := {} }

/-- R76: a pulse of the class of the run increments the count; a long run commits 1 when the incremented count is above
4, a short run commits 0 when it is above 5, and the count is then 0. -/
def Obligations.SameClassPulseExtendsTheRun : Prop :=
  ∀ (s : State) (c : PulseClass), c = s.lastPulseLength →
    acceptPulse c s =
      if c = .long ∧ s.pulseCount + 1 > 4 then { commitBit true s with pulseCount := 0 }
      else if c = .short ∧ s.pulseCount + 1 > 5 then { commitBit false s with pulseCount := 0 }
      else { s with pulseCount := s.pulseCount + 1 }

/-- R77: a pulse of the other class ends the run. A long run of count above 2 commits 1, a short run of count above 3
commits 0; in every case the count is then 0 and the class is the new one. -/
def Obligations.ClassChangeEndsTheRun : Prop :=
  ∀ (s : State) (c : PulseClass), c ≠ s.lastPulseLength →
    acceptPulse c s =
      { (if s.lastPulseLength = .long ∧ s.pulseCount > 2 then commitBit true s
         else if s.lastPulseLength = .short ∧ s.pulseCount > 3 then commitBit false s
         else s) with pulseCount := 0, lastPulseLength := c }

/-- R78: a committed bit is shifted in at stream position 127, every bit moves one stream position down and the one at
position 0 is lost; in words, each takes the top bit of the next. -/
def Obligations.CommitShiftsTheFrame : Prop :=
  ∀ (s : State) (b : Bool),
    let F := s.frame
    let G := (commitBit b s).frame
    G.toNat = (F.toNat * 2 + b.toNat) % 2 ^ 128 ∧
    (frameWord G 0).toNat = (2 * (frameWord F 0).toNat + (frameWord F 1).toNat / 2 ^ 31) % 2 ^ 32 ∧
    (frameWord G 1).toNat = (2 * (frameWord F 1).toNat + (frameWord F 2).toNat / 2 ^ 31) % 2 ^ 32 ∧
    (frameWord G 2).toNat = (2 * (frameWord F 2).toNat + (frameWord F 3).toNat / 2 ^ 31) % 2 ^ 32 ∧
    (frameWord G 3).toNat = (2 * (frameWord F 3).toNat + b.toNat) % 2 ^ 32 ∧
    (∀ k : Fin 127, streamBit G k.castSucc = streamBit F k.succ) ∧ streamBit G 127 = b

/-- R79, R15: `ready` rises only in a falling edge that commits a bit, and only when the new frame buffer satisfies the
detector. -/
def Obligations.ReadyRisesOnlyAtADetectedCommit : Prop :=
  ∀ (i : Instr) (s t : State), exec i s = .next t → s.ready = false → t.ready = true →
    ∃ (d : Word) (b : Bool), i = .edgeF d ∧ t.frame.toNat = (s.frame.toNat * 2 + b.toNat) % 2 ^ 128 ∧
      canDecode s.config t.frame = true

/-- R12, R80: an operation leaves the frame buffer as it is, or is a falling edge accepted with `ready = 0` that shifts
exactly one bit in. -/
def Obligations.FrameMovesByAtMostOneBit : Prop :=
  ∀ (i : Instr) (s t : State), exec i s = .next t →
    t.frame = s.frame ∨
    ∃ (d : Word) (b : Bool), i = .edgeF d ∧ s.ready = false ∧ s.fault = false ∧
      t.frame.toNat = (s.frame.toNat * 2 + b.toNat) % 2 ^ 128

/-! ## Trains of pulses -/

/-- R81, first two bullets: `n >= 1` pulses of class `c` after the other class, closed by a pulse of the other class. One
pulse is spent on the change; the rest commit one bit for each full run, and one more if the leftover reaches the tail
bar. The bit before them is the tail of the run that the first pulse ended. -/
def Obligations.RunAccountingAfterAChange : Prop :=
  ∀ (c other : PulseClass) (count n : Nat), other ≠ c → 1 ≤ n →
    feed other count (List.replicate n c ++ [other]) =
      { last := other, count := 0,
        bits := (if tailRun other ≤ count then [other.bit] else []) ++
          List.replicate ((n - 1) / fullRun c + if tailRun c ≤ (n - 1) % fullRun c then 1 else 0) c.bit }

/-- R81, third bullet, R92 (D6; log 12): a short run right after RESET_STATE or hard reset has no pulse spent on a change;
a long run there commits nothing at the change and is otherwise as after one. -/
def Obligations.RunAccountingAfterReset : Prop :=
  (∀ n : Nat, (feed .short 0 (List.replicate n .short ++ [.long])).bits =
    List.replicate (n / 6 + if 4 ≤ n % 6 then 1 else 0) false) ∧
  ∀ n : Nat, 1 ≤ n → (feed .short 0 (List.replicate n .long ++ [.short])).bits =
    List.replicate ((n - 1) / 5 + if 3 ≤ (n - 1) % 5 then 1 else 0) true

/-- R57, R81, R155 (D3, log 28; D6, log 12): feeding any list of raw bits as 5 long or 6 short pulses each, after a reset,
commits exactly these bits once one further pulse of either class arrives; if the list ends in a 1 the last bit is missing
until then. That a reset leaves the class short is D6's choice. -/
def Obligations.FrameBitsAreRecovered : Prop :=
  ∀ (bits : List Bool) (c : PulseClass),
    (feed .short 0 (bits.flatMap pulsesOfBit ++ [c])).bits = bits ∧
    (feed .short 0 ((bits ++ [true]).flatMap pulsesOfBit)).bits = bits

/-- R57, R74, R75 (D3, D9): under every parameter value the macro SHORT is one pulse of class short and the macro LONG one
pulse of class long: two edge operations whose durations add to a width of that class. -/
def Obligations.MacroPulsesHaveTheirClass : Prop :=
  ∀ p : Params,
    (∃ d e, macroShort p = [.edgeR d, .edgeF e] ∧ (d.toNat + e.toNat) = 64 * clocksPerUs p ∧
      classify p (d + e) = .pulse .short) ∧
    ∃ d e, macroLong p = [.edgeR d, .edgeF e] ∧ (d.toNat + e.toNat) = 80 * clocksPerUs p ∧
      classify p (d + e) = .pulse .long

/-- R71 to R79, R160 (D5): the machine refines the run accounting. A train of pulses of any widths, noise among them, run
from `ready = 0`, leaves the class and count that the accounting gives for the classes of its pulses and has shifted in
exactly the bits that it commits, provided `ready` has not risen (it would have stopped the train). -/
def Obligations.PulseTrainRefinesRunAccounting : Prop :=
  ∀ (s : State) (pulses : List (Word × Word)) (rest : List Command), s.fault = false → s.ready = false →
    s.issued = pulses.flatMap pulseCommands ++ rest →
    ∃ t, core.run (2 * pulses.length) s = .next t ∧ t.issued = rest ∧
      (t.ready = false →
        let r := feed s.lastPulseLength s.pulseCount (classesOf s.config pulses)
        t.lastPulseLength = r.last ∧ t.pulseCount = r.count ∧ t.frame = r.bits.foldl shiftIn s.frame ∧
        t.fault = false ∧ t.config = s.config)

/-! ## The consumer operations -/

/-- R90, R133 (D17, D18; logs 3, 7): READ. The size is tested first, whatever `ready` is; with `ready = 1` the frame is
driven and `ready` is cleared; with `ready = 0` the answer is false, no frame is driven and nothing changes. -/
def Obligations.ReadHandsOverTheFrame : Prop :=
  ∀ (s : State) (minSize : Word), s.fault = false →
    (minSize.toNat < 4 →
      exec (.read minSize) s = .next { s with out := {}, fault := true, faultCause := .readSize }) ∧
    (4 ≤ minSize.toNat → s.ready = true →
      exec (.read minSize) s = .next { s with ready := false, out := { ok := some true, frameOut := some s.frame } }) ∧
    (4 ≤ minSize.toNat → s.ready = false →
      exec (.read minSize) s = .next { s with out := { ok := some false } })

/-- R90, R35: a second READ with no edge between returns false with no side effect, and may be repeated. -/
def Obligations.SecondReadFindsNothing : Prop :=
  ∀ (s t : State) (m n : Word), s.fault = false → 4 ≤ m.toNat → 4 ≤ n.toNat → exec (.read m) s = .next t →
    ∃ u, exec (.read n) t = .next u ∧ u.out = { ok := some false } ∧ elements u = elements t ∧
      exec (.read n) u = .next u

/-- R91: RESET_STATE zeroes `pulse_count`, `last_pulse_length`, `ready` and `pulse_clocks` and leaves all else, the frame
buffer among it; calling it twice is the same as once. -/
def Obligations.ResetStateClearsFourElements : Prop :=
  ∀ s : State, s.fault = false →
    (encodeCommand .resetState).cmd.toNat = 2 * 2 ^ 65 ∧ PulseClass.short.bit = false ∧
    (∃ o : Results, exec .resetState s =
      .next { s with pulseCount := 0, lastPulseLength := .short, ready := false, pulseClocks := 0#32, out := o }) ∧
    ∀ t, exec .resetState s = .next t → exec .resetState t = .next t

/-- R42, R8 (D20): an edge of the producer and a RESET_STATE of the consumer, in whichever order they reach the port. If
RESET_STATE comes last, the four elements are zero and a bit that the edge committed stays in `F`; if the edge comes
last, it runs from the reset values. -/
def Obligations.ResetStateRacingAnEdge : Prop :=
  ∀ (s : State) (edge : Instr) (order : List Instr), s.fault = false → isEdge edge = true →
    Interleaves [edge] [.resetState] order → s.issued = order.map encodeCommand →
    (order = [edge, .resetState] ∧ ∃ t u, exec edge { s with issued := [] } = .next t ∧
      core.run 2 s = .next u ∧
      elements u = (0#32, PulseClass.short, 0, t.frame, false, false, s.faultCause)) ∨
    (order = [.resetState, edge] ∧
      core.run 2 s = exec edge { s with
        pulseClocks := 0#32, lastPulseLength := .short, pulseCount := 0, ready := false, out := {}, issued := [] })

/-! ## The codec operations -/

/-- R101: ENC_SIZE drives 16 and writes no state. -/
def Obligations.EncSizeIsSixteen : Prop :=
  ∀ s : State, s.fault = false →
    (encodeCommand .encSize).cmd.toNat = 6 * 2 ^ 65 ∧
    ∃ o : Results, o.sizeOut = some 16#8 ∧ exec .encSize s = .next { s with out := o }

/-- R102: DEC_SIZE drives 5 and writes no state. -/
def Obligations.DecSizeIsFive : Prop :=
  ∀ s : State, s.fault = false →
    (encodeCommand .decSize).cmd.toNat = 7 * 2 ^ 65 ∧
    ∃ o : Results, o.sizeOut = some 5#8 ∧ exec .decSize s = .next { s with out := o }

/-- R100, R133 (D19, log 26; D17, log 7): a codec operation writes no element of the block's state other than the fault
latch, and that only where R131 gives it a cause. That `exec` answers the latched state there is the choice of log 7. -/
def Obligations.CodecWritesNoBlockState : Prop :=
  ∀ (i : Instr) (s : State), isCodec i = true → s.fault = false →
    ∃ o : Results,
      exec i s = .next (if fatalCauseOf i = .none then { s with out := o }
        else { s with out := {}, fault := true, faultCause := fatalCauseOf i })

/-- R35, R100 (D19): a codec operation gives the same results in any two states of the same block, for the same operands. -/
def Obligations.CodecResultsDependOnOperandsOnly : Prop :=
  ∀ (i : Instr) (s s' t t' : State), isCodec i = true → s.config = s'.config → s.fault = false → s'.fault = false →
    exec i s = .next t → exec i s' = .next t' → t.out = t'.out ∧ t.fault = t'.fault

/-- R111, R115, and `Mn` of spec/00_scope.md section 6: Manchester coding. In `Mn(v)` the pair of logical bit `k` is the bit (first) and its complement; pairs `10` and
`01` are read as 1 and 0, and `11` and `00` are skipped (R115). -/
def Obligations.ManchesterPairsAreBitAndComplement : Prop :=
  (∀ (n : Nat) (v : BitVec n) (k : Nat), k < n →
    (manchester v).getLsbD (2 * k + 1) = v.getLsbD k ∧ (manchester v).getLsbD (2 * k) = !v.getLsbD k) ∧
  manchesterPair true = 0b10#2 ∧ manchesterPair false = 0b01#2 ∧
  ∀ acc : BitVec 64, (∀ b, acceptPair acc (manchesterPair b) = acc * 2#64 + BitVec.ofNat 64 b.toNat) ∧
    acceptPair acc 0b11#2 = acc ∧ acceptPair acc 0b00#2 = acc

/-- R113: the parity bits. With `ep` the upper 18 bits hold an even number of ones, with `op` the lower 18 bits hold an odd
number of ones; bit 17 counts in both. -/
def Obligations.ParityBitsCompleteTheCounts : Prop :=
  ∀ v : BitVec 35,
    (((List.range 18).filter fun k => v.getLsbD (17 + k)).length + (evenParity v).toNat) % 2 = 0 ∧
    (((List.range 18).filter fun k => v.getLsbD k).length + (oddParity v).toNat) % 2 = 1 ∧
    evenParity 0#35 = false ∧ oddParity 0#35 = true

/-- R31: the three views of a frame are the same 128 bits. -/
def Obligations.FrameViewsAgree : Prop :=
  ∀ (S : Frame) (i : Fin 128),
    streamBit S i = S.getLsbD (127 - i.val) ∧
    streamBit S i = (frameWord S ⟨i.val / 32, by omega⟩).getLsbD (31 - i.val % 32) ∧
    streamBit S i = (frameByte S ⟨i.val / 8, by omega⟩).getLsbD (7 - i.val % 8) ∧
    frameOfWords (frameWord S 0) (frameWord S 1) (frameWord S 2) (frameWord S 3) = S

/-- R114, R112 (D10, D11, D12; logs 14, 15): ENCODE with sufficient sizes drives the frame that is, as one integer,
`0x1D * 2^110 + M7(OEM_CODE) * 2^96 + M11(FORMAT_CODE) * 2^74 + M(ep) * 2^72 + M35(V35) * 4 + M(op)`, with `V35` eight
times the upper 32 bits of the payload, and writes no state. -/
def Obligations.EncodeDrivesTheFrame : Prop :=
  ∀ (s : State) (payloadLen wireCap : Word) (P : Payload), s.fault = false →
    5 ≤ payloadLen.toNat → 16 ≤ wireCap.toNat →
    ∃ (w : Frame) (v : BitVec 35),
      exec (.encode payloadLen wireCap P) s = .next { s with out := { wireOut := some w } } ∧
      v.toNat = P.toNat / 2 ^ 8 * 8 ∧
      w.toNat = 0x1D * 2 ^ 110 + (manchester s.config.oemCode).toNat * 2 ^ 96 +
        (manchester s.config.formatCode).toNat * 2 ^ 74 + (manchesterPair (evenParity v)).toNat * 2 ^ 72 +
        (manchester v).toNat * 4 + (manchesterPair (oddParity v)).toNat

/-- R110 (D10, D11; log 14): where the fields of an encoded frame stand, by stream position: ten zeros, the preamble
00011101, and each logical bit followed by its complement, the most significant first. -/
def Obligations.EncodedFieldsStandInPlace : Prop :=
  ∀ (p : Params) (P : Payload),
    let S := encodeFrame p P
    let v := value35 P
    (∀ i : Fin 128, i.val < 10 → streamBit S i = false) ∧
    (∀ j : Fin 8, streamBit S ⟨10 + j.val, by omega⟩ = (0b00011101#8).getMsbD j) ∧
    (∀ k : Fin 7, streamBit S ⟨18 + 2 * (6 - k.val), by omega⟩ = p.oemCode.getLsbD k ∧
      streamBit S ⟨19 + 2 * (6 - k.val), by omega⟩ = !p.oemCode.getLsbD k) ∧
    (∀ k : Fin 11, streamBit S ⟨32 + 2 * (10 - k.val), by omega⟩ = p.formatCode.getLsbD k ∧
      streamBit S ⟨33 + 2 * (10 - k.val), by omega⟩ = !p.formatCode.getLsbD k) ∧
    streamBit S 54 = evenParity v ∧ streamBit S 55 = !evenParity v ∧
    (∀ k : Fin 35, streamBit S ⟨56 + 2 * (34 - k.val), by omega⟩ = v.getLsbD k ∧
      streamBit S ⟨57 + 2 * (34 - k.val), by omega⟩ = !v.getLsbD k) ∧
    streamBit S 126 = oddParity v ∧ streamBit S 127 = !oddParity v

/-- R103, R115, R105 (D13, D14; logs 16, 17): DECODE with sufficient sizes answers on every 128-bit frame, validated or
not. The result is the number made of the valid pairs among stream positions 54 to 127, in stream order, without its
last bit; a pair of equal raw bits adds nothing. No state is written. -/
def Obligations.DecodeCollectsTheValidPairs : Prop :=
  ∀ (s : State) (wireLen payloadCap : Word) (S : Frame), s.fault = false →
    16 ≤ wireLen.toNat → 5 ≤ payloadCap.toNat →
    ∃ P : Payload, exec (.decode wireLen payloadCap S) s = .next { s with out := { payloadOut := some P } } ∧
      P.toNat = (((List.finRange 37).filter fun k =>
          streamBit S ⟨54 + 2 * k.val, by omega⟩ != streamBit S ⟨55 + 2 * k.val, by omega⟩).foldl
        (fun acc k => 2 * acc + (streamBit S ⟨54 + 2 * k.val, by omega⟩).toNat) 0) / 2 ∧
      P.toNat < 2 ^ 36

/-- R115, corner cases (D13, D14; logs 16, 17): exactly one invalid pair, number `j`, in a frame whose first 36 pairs
otherwise stand for the 36 bits of `X`. If it is the last, the last value bit is dropped; otherwise the result is `X`
with bit `35 - j` deleted and the bits above it moved down. -/
def Obligations.OneInvalidPairDeletesOneBit : Prop :=
  ∀ (S : Frame) (X : BitVec 36) (j : Fin 37),
    (∀ k : Fin 37,
      (streamBit S ⟨54 + 2 * k.val, by omega⟩ = streamBit S ⟨55 + 2 * k.val, by omega⟩) ↔ k = j) →
    (∀ k : Fin 36, k.val ≠ j.val → streamBit S ⟨54 + 2 * k.val, by omega⟩ = X.getLsbD (35 - k.val)) →
    (decodeFrame S).toNat =
      if j.val = 36 then X.toNat / 2
      else X.toNat / 2 ^ (36 - j.val) * 2 ^ (35 - j.val) + X.toNat % 2 ^ (35 - j.val)

/-- R104, R116 (D15, D16; logs 18, 19): CAN_DECODE answers true exactly when the length is at least 16 and stream
positions 10 to 17 hold the preamble and 18 to 31 the Manchester-coded OEM constant; it writes no state and never fails. -/
def Obligations.CanDecodeTestsPreambleAndOem : Prop :=
  ∀ (s : State) (wireLen : Word) (S : Frame), s.fault = false →
    ∃ b : Bool, exec (.canDecode wireLen S) s = .next { s with out := { ok := some b } } ∧
      (b = true ↔ 16 ≤ wireLen.toNat ∧
        (∀ j : Fin 8, streamBit S ⟨10 + j.val, by omega⟩ = (0b00011101#8).getMsbD j) ∧
        ∀ k : Fin 7, streamBit S ⟨18 + 2 * (6 - k.val), by omega⟩ = s.config.oemCode.getLsbD k ∧
          streamBit S ⟨19 + 2 * (6 - k.val), by omega⟩ = !s.config.oemCode.getLsbD k)

/-- R41, R116, R34: bounds. ENCODE does not read payload byte `p4` and DECODE does not read stream positions below 54 (R41);
CAN_DECODE and the detector read positions 10 to 31 only (R116, R34). -/
def Obligations.CodecReadsWithinBounds : Prop :=
  (∀ (p : Params) (P Q : Payload), (∀ j : Fin 5, j.val < 4 → payloadByte P j = payloadByte Q j) →
    encodeFrame p P = encodeFrame p Q) ∧
  (∀ S T : Frame, (∀ i : Fin 128, 54 ≤ i.val → streamBit S i = streamBit T i) → decodeFrame S = decodeFrame T) ∧
  ∀ (p : Params) (S T : Frame), (∀ i : Fin 128, 10 ≤ i.val → i.val < 32 → streamBit S i = streamBit T i) →
    canDecode p S = canDecode p T

/-- R117 (a): a frame from ENCODE satisfies the detector, for every payload and every parameter value. -/
def Obligations.EncodedFrameIsAlwaysDetected : Prop :=
  ∀ (p : Params) (P : Payload), canDecode p (encodeFrame p P) = true

/-- R117 (b), R90 (D12, D13, D14; logs 15, 16, 17): DECODE of an encoded frame, its slack being anything, is the number
`ep * 2^35 + v32 * 8`, from which the 32-bit input is recovered. -/
def Obligations.DecodeRecoversTheEncodedValue : Prop :=
  ∀ (p : Params) (P : Payload) (S : Frame),
    (∀ i : Fin 128, 10 ≤ i.val → streamBit S i = streamBit (encodeFrame p P) i) →
    (decodeFrame S).toNat = (evenParity (value35 P)).toNat * 2 ^ 35 + P.toNat / 2 ^ 8 * 8 ∧
    (decodeFrame S).toNat / 8 % 2 ^ 32 = P.toNat / 2 ^ 8

/-! ## Failures and the whole machine -/

/-- R131, R133 (D17; log 7): the fatal causes, complete. From `fault = 0` an operation raises Fatal exactly when R131's
table gives it a cause; then it has written nothing but the latch and driven nothing, and its outcome in a step is *fault*,
carrying that state. -/
def Obligations.FatalCausesAreComplete : Prop :=
  ∀ (i : Instr) (s : State), s.fault = false →
    (fatalCauseOf i ≠ .none →
      exec i s = .next { s with fault := true, faultCause := fatalCauseOf i, out := {} } ∧
      outcomeOf (exec i s) =
        .fault (.fatal { s with fault := true, faultCause := fatalCauseOf i, out := {} })) ∧
    (fatalCauseOf i = .none → ∃ t, exec i s = .next t ∧ outcomeOf (exec i s) = .next t ∧
      t.fault = false ∧ t.faultCause = s.faultCause)

/-- R134, R135 (D17; log 8): a faulted block does nothing, whatever is issued and for however long: reserved words too.
Only hard reset clears the latch. `block` is the machine that goes on in the faulted state, as R134 allows; a step of the
model answers *fault* there, with the state unchanged but for the command that was taken. -/
def Obligations.FaultedBlockDoesNothing : Prop :=
  ∀ (s : State) (k : Nat), s.fault = true → k ≤ s.issued.length →
    (∀ i, exec i s = .next { s with out := {} }) ∧
    (∃ t, block.run k s = .next t ∧ elements t = elements s ∧ t.config = s.config ∧ t.issued = s.issued.drop k) ∧
    (∀ c rest, s.issued = c :: rest → step s = .fault (.fatal { s with issued := rest, out := {} })) ∧
    s.hardReset.fault = false

/-- R10's table of writers (D8, D17): an operation that changes an element is one of those that the table lists. -/
def Obligations.ElementsHaveTheListedWriters : Prop :=
  ∀ (i : Instr) (s t : State), exec i s = .next t →
    (t.pulseClocks ≠ s.pulseClocks → isEdge i = true ∨ i = .resetState) ∧
    (t.lastPulseLength ≠ s.lastPulseLength ∨ t.pulseCount ≠ s.pulseCount → (∃ d, i = .edgeF d) ∨ i = .resetState) ∧
    (t.frame ≠ s.frame → ∃ d, i = .edgeF d) ∧
    (s.ready = false ∧ t.ready = true → ∃ d, i = .edgeF d) ∧
    (s.ready = true ∧ t.ready = false → (∃ n, i = .read n) ∨ i = .resetState) ∧
    (t.fault ≠ s.fault ∨ t.faultCause ≠ s.faultCause → fatalCauseOf i ≠ .none)

/-- R51, R54 (D1, D18; log 3): an operation that completes drives exactly the results listed for it, and `frame_out` only
with READ's `ok = 1`; every other result port carries no value. -/
def Obligations.ResultsAreDrivenAsListed : Prop :=
  ∀ (i : Instr) (s t : State), s.fault = false → fatalCauseOf i = .none → exec i s = .next t →
    (t.out.ok.isSome = true ↔ (∃ n, i = .read n) ∨ ∃ n S, i = .canDecode n S) ∧
    (t.out.frameOut.isSome = true ↔ (∃ n, i = .read n) ∧ s.ready = true) ∧
    (t.out.wireOut.isSome = true ↔ ∃ n m P, i = .encode n m P) ∧
    (t.out.payloadOut.isSome = true ↔ ∃ n m S, i = .decode n m S) ∧
    (t.out.sizeOut.isSome = true ↔ i = .encSize ∨ i = .decSize)

/-- R19, R13, R131 at hard reset (D8): the invariant holds there for every parameter value. -/
def Obligations.InvariantAtHardReset : Prop := (∀ p : Params, Inv (State.created p)) ∧ Inv State.reset

/-- R19, R13, R131 (D6, D7, D17): every step keeps the invariant: `ready` only over a frame that satisfies the detector, the
count at most 5 and at most 4 in a long run, `fault_cause` 0 exactly while `fault = 0`. The state that a fatal failure
leaves satisfies it too. -/
def Obligations.StepKeepsTheInvariant : Prop :=
  ∀ s t : State, Inv s → step s = .next t ∨ step s = .fault (.fatal t) → Inv t

/-- R133, D17 (logs 7 and 8): a run ends at a fatal failure. A faulted state is never a final state of a run of one step or
more; a run that comes to an operation with a fatal cause ends as *fault* however many more steps are asked for, in the
state that all earlier operations left and with only the latch written; and from `fault = 0` nothing else is a fault. -/
def Obligations.RunEndsAtFatal : Prop :=
  (∀ (s t : State) (k : Nat), core.run (k + 1) s = .next t → t.fault = false) ∧
  (∀ (s t : State) (k n : Nat) (c : Command) (rest : List Command) (i : Instr),
    s.fault = false → core.run k s = .next t → t.issued = c :: rest → decodeCommand c = .ok i →
    fatalCauseOf i ≠ .none →
    core.run (k + 1 + n) s =
      .fault (.fatal { t with issued := rest, out := {}, fault := true, faultCause := fatalCauseOf i })) ∧
  ∀ (s : State) (f : Fault), s.fault = false → step s = .fault f →
    ∃ (c : Command) (rest : List Command) (i : Instr),
      s.issued = c :: rest ∧ decodeCommand c = .ok i ∧ fatalCauseOf i ≠ .none ∧
      f = .fatal { s with issued := rest, out := {}, fault := true, faultCause := fatalCauseOf i }
end

