-- ==== Sys2Proof/Laws/State.lean ====
section
/-! SUPPORT. One lemma for each field of `State` under each named update, and under `State.created`. -/

namespace Sys2Proof.Machine

/-! ### `withOut` -/
@[simp] theorem withOut_config (o : Results) (s : State) : (s.withOut o).config = s.config := rfl
@[simp] theorem withOut_pulseClocks (o : Results) (s : State) : (s.withOut o).pulseClocks = s.pulseClocks := rfl
@[simp] theorem withOut_lastPulseLength (o : Results) (s : State) : (s.withOut o).lastPulseLength = s.lastPulseLength := rfl
@[simp] theorem withOut_pulseCount (o : Results) (s : State) : (s.withOut o).pulseCount = s.pulseCount := rfl
@[simp] theorem withOut_frame (o : Results) (s : State) : (s.withOut o).frame = s.frame := rfl
@[simp] theorem withOut_ready (o : Results) (s : State) : (s.withOut o).ready = s.ready := rfl
@[simp] theorem withOut_fault (o : Results) (s : State) : (s.withOut o).fault = s.fault := rfl
@[simp] theorem withOut_faultCause (o : Results) (s : State) : (s.withOut o).faultCause = s.faultCause := rfl
@[simp] theorem withOut_out (o : Results) (s : State) : (s.withOut o).out = o := rfl
@[simp] theorem withOut_issued (o : Results) (s : State) : (s.withOut o).issued = s.issued := rfl

/-! ### `withPulseClocks` -/
@[simp] theorem withPulseClocks_config (t : Word) (s : State) : (s.withPulseClocks t).config = s.config := rfl
@[simp] theorem withPulseClocks_pulseClocks (t : Word) (s : State) : (s.withPulseClocks t).pulseClocks = t := rfl
@[simp] theorem withPulseClocks_lastPulseLength (t : Word) (s : State) : (s.withPulseClocks t).lastPulseLength = s.lastPulseLength := rfl
@[simp] theorem withPulseClocks_pulseCount (t : Word) (s : State) : (s.withPulseClocks t).pulseCount = s.pulseCount := rfl
@[simp] theorem withPulseClocks_frame (t : Word) (s : State) : (s.withPulseClocks t).frame = s.frame := rfl
@[simp] theorem withPulseClocks_ready (t : Word) (s : State) : (s.withPulseClocks t).ready = s.ready := rfl
@[simp] theorem withPulseClocks_fault (t : Word) (s : State) : (s.withPulseClocks t).fault = s.fault := rfl
@[simp] theorem withPulseClocks_faultCause (t : Word) (s : State) : (s.withPulseClocks t).faultCause = s.faultCause := rfl
@[simp] theorem withPulseClocks_out (t : Word) (s : State) : (s.withPulseClocks t).out = s.out := rfl
@[simp] theorem withPulseClocks_issued (t : Word) (s : State) : (s.withPulseClocks t).issued = s.issued := rfl

/-! ### `withRun` -/
@[simp] theorem withRun_config (l : PulseClass) (n : Nat) (s : State) : (s.withRun l n).config = s.config := rfl
@[simp] theorem withRun_pulseClocks (l : PulseClass) (n : Nat) (s : State) : (s.withRun l n).pulseClocks = s.pulseClocks := rfl
@[simp] theorem withRun_lastPulseLength (l : PulseClass) (n : Nat) (s : State) : (s.withRun l n).lastPulseLength = l := rfl
@[simp] theorem withRun_pulseCount (l : PulseClass) (n : Nat) (s : State) : (s.withRun l n).pulseCount = n := rfl
@[simp] theorem withRun_frame (l : PulseClass) (n : Nat) (s : State) : (s.withRun l n).frame = s.frame := rfl
@[simp] theorem withRun_ready (l : PulseClass) (n : Nat) (s : State) : (s.withRun l n).ready = s.ready := rfl
@[simp] theorem withRun_fault (l : PulseClass) (n : Nat) (s : State) : (s.withRun l n).fault = s.fault := rfl
@[simp] theorem withRun_faultCause (l : PulseClass) (n : Nat) (s : State) : (s.withRun l n).faultCause = s.faultCause := rfl
@[simp] theorem withRun_out (l : PulseClass) (n : Nat) (s : State) : (s.withRun l n).out = s.out := rfl
@[simp] theorem withRun_issued (l : PulseClass) (n : Nat) (s : State) : (s.withRun l n).issued = s.issued := rfl

/-! ### `withFrame` -/
@[simp] theorem withFrame_config (S : Frame) (s : State) : (s.withFrame S).config = s.config := rfl
@[simp] theorem withFrame_pulseClocks (S : Frame) (s : State) : (s.withFrame S).pulseClocks = s.pulseClocks := rfl
@[simp] theorem withFrame_lastPulseLength (S : Frame) (s : State) : (s.withFrame S).lastPulseLength = s.lastPulseLength := rfl
@[simp] theorem withFrame_pulseCount (S : Frame) (s : State) : (s.withFrame S).pulseCount = s.pulseCount := rfl
@[simp] theorem withFrame_frame (S : Frame) (s : State) : (s.withFrame S).frame = S := rfl
@[simp] theorem withFrame_ready (S : Frame) (s : State) : (s.withFrame S).ready = s.ready := rfl
@[simp] theorem withFrame_fault (S : Frame) (s : State) : (s.withFrame S).fault = s.fault := rfl
@[simp] theorem withFrame_faultCause (S : Frame) (s : State) : (s.withFrame S).faultCause = s.faultCause := rfl
@[simp] theorem withFrame_out (S : Frame) (s : State) : (s.withFrame S).out = s.out := rfl
@[simp] theorem withFrame_issued (S : Frame) (s : State) : (s.withFrame S).issued = s.issued := rfl

/-! ### `withReady` -/
@[simp] theorem withReady_config (b : Bool) (s : State) : (s.withReady b).config = s.config := rfl
@[simp] theorem withReady_pulseClocks (b : Bool) (s : State) : (s.withReady b).pulseClocks = s.pulseClocks := rfl
@[simp] theorem withReady_lastPulseLength (b : Bool) (s : State) : (s.withReady b).lastPulseLength = s.lastPulseLength := rfl
@[simp] theorem withReady_pulseCount (b : Bool) (s : State) : (s.withReady b).pulseCount = s.pulseCount := rfl
@[simp] theorem withReady_frame (b : Bool) (s : State) : (s.withReady b).frame = s.frame := rfl
@[simp] theorem withReady_ready (b : Bool) (s : State) : (s.withReady b).ready = b := rfl
@[simp] theorem withReady_fault (b : Bool) (s : State) : (s.withReady b).fault = s.fault := rfl
@[simp] theorem withReady_faultCause (b : Bool) (s : State) : (s.withReady b).faultCause = s.faultCause := rfl
@[simp] theorem withReady_out (b : Bool) (s : State) : (s.withReady b).out = s.out := rfl
@[simp] theorem withReady_issued (b : Bool) (s : State) : (s.withReady b).issued = s.issued := rfl

/-! ### `withFatal` -/
@[simp] theorem withFatal_config (c : FatalCause) (s : State) : (s.withFatal c).config = s.config := rfl
@[simp] theorem withFatal_pulseClocks (c : FatalCause) (s : State) : (s.withFatal c).pulseClocks = s.pulseClocks := rfl
@[simp] theorem withFatal_lastPulseLength (c : FatalCause) (s : State) : (s.withFatal c).lastPulseLength = s.lastPulseLength := rfl
@[simp] theorem withFatal_pulseCount (c : FatalCause) (s : State) : (s.withFatal c).pulseCount = s.pulseCount := rfl
@[simp] theorem withFatal_frame (c : FatalCause) (s : State) : (s.withFatal c).frame = s.frame := rfl
@[simp] theorem withFatal_ready (c : FatalCause) (s : State) : (s.withFatal c).ready = s.ready := rfl
@[simp] theorem withFatal_fault (c : FatalCause) (s : State) : (s.withFatal c).fault = true := rfl
@[simp] theorem withFatal_faultCause (c : FatalCause) (s : State) : (s.withFatal c).faultCause = c := rfl
@[simp] theorem withFatal_out (c : FatalCause) (s : State) : (s.withFatal c).out = s.out := rfl
@[simp] theorem withFatal_issued (c : FatalCause) (s : State) : (s.withFatal c).issued = s.issued := rfl

/-! ### `withIssued` -/
@[simp] theorem withIssued_config (cs : List Command) (s : State) : (s.withIssued cs).config = s.config := rfl
@[simp] theorem withIssued_pulseClocks (cs : List Command) (s : State) : (s.withIssued cs).pulseClocks = s.pulseClocks := rfl
@[simp] theorem withIssued_lastPulseLength (cs : List Command) (s : State) : (s.withIssued cs).lastPulseLength = s.lastPulseLength := rfl
@[simp] theorem withIssued_pulseCount (cs : List Command) (s : State) : (s.withIssued cs).pulseCount = s.pulseCount := rfl
@[simp] theorem withIssued_frame (cs : List Command) (s : State) : (s.withIssued cs).frame = s.frame := rfl
@[simp] theorem withIssued_ready (cs : List Command) (s : State) : (s.withIssued cs).ready = s.ready := rfl
@[simp] theorem withIssued_fault (cs : List Command) (s : State) : (s.withIssued cs).fault = s.fault := rfl
@[simp] theorem withIssued_faultCause (cs : List Command) (s : State) : (s.withIssued cs).faultCause = s.faultCause := rfl
@[simp] theorem withIssued_out (cs : List Command) (s : State) : (s.withIssued cs).out = s.out := rfl
@[simp] theorem withIssued_issued (cs : List Command) (s : State) : (s.withIssued cs).issued = cs := rfl

/-! ### `State.created` -/
@[simp] theorem created_config (p : Params) : (State.created p).config = p := rfl
@[simp] theorem created_pulseClocks (p : Params) : (State.created p).pulseClocks = 0#32 := rfl
@[simp] theorem created_lastPulseLength (p : Params) : (State.created p).lastPulseLength = .short := rfl
@[simp] theorem created_pulseCount (p : Params) : (State.created p).pulseCount = 0 := rfl
@[simp] theorem created_frame (p : Params) : (State.created p).frame = p.frameInit := rfl
@[simp] theorem created_ready (p : Params) : (State.created p).ready = false := rfl
@[simp] theorem created_fault (p : Params) : (State.created p).fault = false := rfl
@[simp] theorem created_faultCause (p : Params) : (State.created p).faultCause = .none := rfl
@[simp] theorem created_out (p : Params) : (State.created p).out = {} := rfl
@[simp] theorem created_issued (p : Params) : (State.created p).issued = [] := rfl

end Sys2Proof.Machine
end

