-- ==== Sys2Proof/Laws/Ops.lean ====
section
/-! SUPPORT. What the shared operations of Ops.lean can do. -/

namespace Sys2Proof.Machine

theorem quiet_eq (s : State) : quiet s = { s with out := {} } := rfl

@[simp] theorem quiet_quiet (s : State) : quiet (quiet s) = quiet s := rfl

@[simp] theorem quiet_config (s : State) : (quiet s).config = s.config := rfl
@[simp] theorem quiet_pulseClocks (s : State) : (quiet s).pulseClocks = s.pulseClocks := rfl
@[simp] theorem quiet_lastPulseLength (s : State) : (quiet s).lastPulseLength = s.lastPulseLength := rfl
@[simp] theorem quiet_pulseCount (s : State) : (quiet s).pulseCount = s.pulseCount := rfl
@[simp] theorem quiet_frame (s : State) : (quiet s).frame = s.frame := rfl
@[simp] theorem quiet_ready (s : State) : (quiet s).ready = s.ready := rfl
@[simp] theorem quiet_fault (s : State) : (quiet s).fault = s.fault := rfl
@[simp] theorem quiet_faultCause (s : State) : (quiet s).faultCause = s.faultCause := rfl
@[simp] theorem quiet_out (s : State) : (quiet s).out = {} := rfl
@[simp] theorem quiet_issued (s : State) : (quiet s).issued = s.issued := rfl

/-- Raising Fatal writes the latch and drives nothing (R133). -/
theorem raiseFatal_eq (c : FatalCause) (s : State) :
    raiseFatal c s = { s with fault := true, faultCause := c, out := {} } := rfl

/-- A faulted block does nothing (R134). -/
theorem operate_faulted (op : State → State) {s : State} (h : s.fault = true) : operate op s = quiet s := by
  simp [operate, h]

/-- With `fault = 0` the operation acts. -/
theorem operate_live (op : State → State) {s : State} (h : s.fault = false) : operate op s = op (quiet s) := by
  simp [operate, h]

/-- Either the block is faulted and only the results go, or the operation acted. -/
theorem operate_cases (op : State → State) (s : State) :
    (s.fault = true ∧ operate op s = quiet s) ∨ (s.fault = false ∧ operate op s = op (quiet s)) := by
  cases h : s.fault
  · exact .inr ⟨rfl, operate_live op h⟩
  · exact .inl ⟨rfl, operate_faulted op h⟩

theorem checkSize_fails (c : FatalCause) (op : State → State) (s : State) :
    checkSize true c op s = raiseFatal c s := rfl

theorem checkSize_passes (c : FatalCause) (op : State → State) (s : State) : checkSize false c op s = op s := rfl

@[simp] theorem outcomeOf_faulted {s : State} (h : s.fault = true) : outcomeOf (.next s) = .fault (.fatal s) := by
  simp [outcomeOf, h]
@[simp] theorem outcomeOf_live {s : State} (h : s.fault = false) : outcomeOf (.next s) = .next s := by
  simp [outcomeOf, h]
@[simp] theorem outcomeOf_refused (r : Refusal) : outcomeOf (.refused r) = .refused r := rfl

/-- A next state is one with `fault = 0`, passed on as it is. -/
theorem outcomeOf_next {o : Host.Outcome State Fault Refusal} {t : State} (h : outcomeOf o = .next t) :
    o = .next t ∧ t.fault = false := by
  cases o with
  | next s =>
    cases hf : s.fault
    · rw [outcomeOf_live hf] at h
      injection h with h
      exact ⟨by rw [h], h ▸ hf⟩
    · rw [outcomeOf_faulted hf] at h
      cases h
  | fault r => cases h
  | refused r => cases h

/-- Hard reset gives the state of creation; the configuration and the environment's list stay (R20, R22). -/
theorem hardReset_eq (s : State) : s.hardReset = { State.created s.config with issued := s.issued } := rfl

theorem takeCommand_nil {s : State} (h : s.issued = []) : takeCommand s = none := by
  simp [takeCommand, h]

theorem takeCommand_cons {s : State} {c : Command} {rest : List Command} (h : s.issued = c :: rest) :
    takeCommand s = some (c, { s with issued := rest }) := by
  simp [takeCommand, h, State.withIssued]

/-- The command that was put on the port is the one taken next, and the list behind it is untouched. -/
theorem takeCommand_withCommand (c : Command) (s : State) :
    takeCommand (s.withCommand c) = some (c, { s with issued := s.issued.tail }) := rfl

/-- An issued operation stands behind those issued before it. -/
theorem issue_issued (c : Command) (s : State) : (s.issue c).issued = s.issued ++ [c] := rfl

end Sys2Proof.Machine
end

