-- ==== Sys2Proof/Laws/Codec.lean ====
section
/-! SUPPORT. The pairs of a frame by position, and the accumulation of bits and pairs. -/

namespace Sys2Proof.Machine

/-- A pair of a word of a frame is the pair at its place in the frame. -/
theorem pairOf_frameWord (S : Frame) (w : Fin 4) {k : Nat} (h : k < 16) :
    pairOf (frameWord S w) k = S.extractLsb' (96 - 32 * w + 2 * k) 2 := by
  ext i hi
  simp only [pairOf, frameWord, BitVec.getElem_extractLsb', BitVec.getLsbD_extractLsb']
  simp [show 2 * k + i < 32 by omega, Nat.add_assoc]

/-- DECODE's 37 pairs are those of the low 74 bits of the frame, from the top (R115). -/
theorem valuePairs_eq (S : Frame) :
    valuePairs S = (countDown 36).map fun k => S.extractLsb' (2 * k) 2 := by
  have h1 : ∀ k, k < 16 → pairOf (frameWord S 1) k = S.extractLsb' (2 * (32 + k)) 2 := fun k h => by
    rw [pairOf_frameWord S 1 h]; congr 1; simp; omega
  have h2 : ∀ k, k < 16 → pairOf (frameWord S 2) k = S.extractLsb' (2 * (16 + k)) 2 := fun k h => by
    rw [pairOf_frameWord S 2 h]; congr 1; simp; omega
  have h3 : ∀ k, k < 16 → pairOf (frameWord S 3) k = S.extractLsb' (2 * k) 2 := fun k h => by
    rw [pairOf_frameWord S 3 h]; congr 1; simp
  simp [valuePairs, countDown, h1, h2, h3]

theorem manchesterPair_toNat (b : Bool) : (manchesterPair b).toNat = 1 + b.toNat := by cases b <;> rfl

@[simp] theorem bitsMsbFirst_length {n : Nat} (v : BitVec n) : (bitsMsbFirst v).length = n := by
  simp [bitsMsbFirst]

/-- The bit of weight `2^k` stands `k` places from the end of the list. -/
theorem bitsMsbFirst_getElem {n : Nat} (v : BitVec n) (i : Nat) (h : i < (bitsMsbFirst v).length) :
    (bitsMsbFirst v)[i] = v.getLsbD (n - 1 - i) := by
  have h' : i < n := by simpa using h
  simp [bitsMsbFirst, BitVec.getMsbD, h']

/-- A bit already folded in comes out as one more. -/
theorem foldl_xor (l : List Bool) (a : Bool) : l.foldl xor a = xor a (l.foldl xor false) := by
  induction l generalizing a with
  | nil => simp
  | cons b l ih => rw [List.foldl_cons, List.foldl_cons, ih, ih (xor false b)]; simp

/-- The parity of a list is that of the number of its true entries. -/
theorem foldl_xor_toNat (l : List Bool) : (l.foldl xor false).toNat = l.count true % 2 := by
  induction l with
  | nil => rfl
  | cons b l ih =>
    rw [List.foldl_cons, foldl_xor]
    cases b <;> cases h : l.foldl xor false <;> simp_all <;> omega

end Sys2Proof.Machine
end

