-- ==== Sys2Proof/Laws/Decode.lean ====
section
/-! SUPPORT. The fields of a command word: reading back what was put together, and their values as numbers. -/

namespace Sys2Proof

/-- The fields of a word made of fields are these fields. -/
@[simp] theorem fieldsOf_wordOf (f : Fields) : fieldsOf (wordOf f) = f := by
  obtain ⟨op, r, a, b⟩ := f
  simp only [fieldsOf, wordOf, Fields.mk.injEq]
  refine ⟨?_, ?_, ?_, ?_⟩ <;> ext i hi <;>
    simp only [BitVec.getElem_extractLsb', BitVec.getLsbD_append]
  · simp [show ¬ 65 + i < 32 by omega, show ¬ 65 + i - 32 < 32 by omega, show ¬ 65 + i - 32 - 32 < 1 by omega,
      show 65 + i - 32 - 32 - 1 = i by omega, BitVec.getLsbD_eq_getElem hi]
  · obtain rfl : i = 0 := by omega
    simp [BitVec.getLsbD_eq_getElem]
  · simp [show ¬ 32 + i < 32 by omega, BitVec.getLsbD_eq_getElem hi]
    omega
  · simp [hi]

/-- A word made of its own fields is the word. -/
@[simp] theorem wordOf_fieldsOf (w : CommandWord) : wordOf (fieldsOf w) = w := by
  ext i hi
  simp only [wordOf, fieldsOf, BitVec.getElem_eq_testBit_toNat, BitVec.testBit_toNat, BitVec.getLsbD_append,
    BitVec.getLsbD_extractLsb']
  split
  · simp [*]
  · split
    · rename_i h1 h2; simp [h2, show 32 + (i - 32) = i by omega]
    · split
      · rename_i h1 h2 h3
        simp [h3, show 64 + (i - 32 - 32) = i by omega]
      · rename_i h1 h2 h3
        simp [show i - 32 - 32 - 1 < 3 by omega, show 65 + (i - 32 - 32 - 1) = i by omega]

theorem fieldsOf_op_toNat (w : CommandWord) : (fieldsOf w).op.toNat = w.toNat / 2 ^ 65 := by
  have := w.isLt
  simp only [fieldsOf, BitVec.extractLsb'_toNat, Nat.shiftRight_eq_div_pow]
  omega

theorem fieldsOf_r_toNat (w : CommandWord) : (fieldsOf w).r.toNat = w.toNat / 2 ^ 64 % 2 := by
  simp [fieldsOf, BitVec.extractLsb'_toNat, Nat.shiftRight_eq_div_pow]

theorem fieldsOf_a_toNat (w : CommandWord) : (fieldsOf w).a.toNat = w.toNat / 2 ^ 32 % 2 ^ 32 := by
  simp [fieldsOf, BitVec.extractLsb'_toNat, Nat.shiftRight_eq_div_pow]

theorem fieldsOf_b_toNat (w : CommandWord) : (fieldsOf w).b.toNat = w.toNat % 2 ^ 32 := by
  simp [fieldsOf, BitVec.extractLsb'_toNat]

/-- A command word as a number (R50). -/
theorem wordOf_toNat (f : Fields) :
    (wordOf f).toNat = f.op.toNat * 2 ^ 65 + f.r.toNat * 2 ^ 64 + f.a.toNat * 2 ^ 32 + f.b.toNat := by
  have h := fieldsOf_wordOf f
  have h1 := fieldsOf_op_toNat (wordOf f)
  have h2 := fieldsOf_r_toNat (wordOf f)
  have h3 := fieldsOf_a_toNat (wordOf f)
  have h4 := fieldsOf_b_toNat (wordOf f)
  rw [h] at h1 h2 h3 h4
  omega

/-- Two words have the bits of their fields in common. -/
theorem wordOf_and (f g : Fields) :
    wordOf f &&& wordOf g = wordOf ⟨f.op &&& g.op, f.r &&& g.r, f.a &&& g.a, f.b &&& g.b⟩ := by
  have h : (f.op ++ f.r ++ f.a ++ f.b) &&& (g.op ++ g.r ++ g.a ++ g.b) =
      (f.op &&& g.op) ++ (f.r &&& g.r) ++ (f.a &&& g.a) ++ (f.b &&& g.b) := by
    rw [BitVec.and_append, BitVec.and_append, BitVec.and_append]
  exact h

/-- A word has its fields only once. -/
theorem wordOf_inj {f g : Fields} : wordOf f = wordOf g ↔ f = g :=
  ⟨fun h => by rw [← fieldsOf_wordOf f, h, fieldsOf_wordOf], fun h => by rw [h]⟩

/-- Whether a word belongs to a row of the table, said of its fields: `m` and `p` are those of the row's mask and
pattern. -/
theorem covers_iff {row : OpcodeRow} (m p : Fields) (hm : row.mask = wordOf m) (hp : row.pattern = wordOf p)
    (w : CommandWord) :
    row.covers w = true ↔ (fieldsOf w).op &&& m.op = p.op ∧ (fieldsOf w).r &&& m.r = p.r ∧
      (fieldsOf w).a &&& m.a = p.a ∧ (fieldsOf w).b &&& m.b = p.b := by
  rw [OpcodeRow.covers, hm, hp, beq_iff_eq]
  conv_lhs => rw [← wordOf_fieldsOf w, wordOf_and, wordOf_inj]
  cases p
  simp

end Sys2Proof
end

