-- ==== Sys2Proof/Laws/Edge.lean ====
section
/-! SUPPORT. What the edge operations and the consumer operations can do: each case once, as an equation. -/

namespace Sys2Proof.Machine

/-- A pulse width outside the window is noise (R74). -/
theorem classify_noise {p : Params} {t : Word} (h : ¬ (minClocks p < t.toNat ∧ t.toNat < maxClocks p)) :
    classify p t = .noise := if_neg h

/-- A width inside the window has the class that the middle threshold gives it (R75). -/
theorem classify_pulse {p : Params} {t : Word} (h : minClocks p < t.toNat ∧ t.toNat < maxClocks p) :
    classify p t = .pulse (if t.toNat < midClocks p then .short else .long) := by
  rw [classify, if_pos h]
  split <;> rfl

/-- The bit that `runUpdate` commits is that of the run it is applied to, and then the count is 0 (R76, R77). -/
theorem runUpdate_commit {l c : PulseClass} {n : Nat} {b : Bool} (h : (runUpdate l n c).commit = some b) :
    b = l.bit ∧ (runUpdate l n c).count = 0 := by
  cases l <;> cases c <;> simp only [runUpdate, sameClass, tailBit, reduceCtorEq, if_true, if_false, true_and, false_and] at h ⊢ <;>
    (repeat' split at h) <;> simp_all [PulseClass.bit]

@[simp] theorem runUpdate_last (l c : PulseClass) (n : Nat) : (runUpdate l n c).last = c := by
  rw [runUpdate, sameClass]
  repeat' split
  all_goals rfl

/-- The bounds of the count (R13): at most 5, and at most 4 in a long run, are kept. -/
theorem runUpdate_bounds {l c : PulseClass} {n : Nat} (h5 : n ≤ 5) (h4 : l = .long → n ≤ 4) :
    (runUpdate l n c).count ≤ 5 ∧ (c = .long → (runUpdate l n c).count ≤ 4) := by
  cases l <;> cases c <;> simp_all [runUpdate, sameClass, fullLong, fullShort] <;> split <;> simp_all
  all_goals omega

theorem shiftIn_toNat (S : Frame) (b : Bool) : (shiftIn S b).toNat = (S.toNat * 2 + b.toNat) % 2 ^ 128 := by
  simp only [shiftIn, BitVec.toNat_shiftConcat, Nat.shiftLeft_eq]

@[simp] theorem commitBit_config (b : Bool) (s : State) : (commitBit b s).config = s.config := rfl
@[simp] theorem commitBit_pulseClocks (b : Bool) (s : State) : (commitBit b s).pulseClocks = s.pulseClocks := rfl
@[simp] theorem commitBit_lastPulseLength (b : Bool) (s : State) :
    (commitBit b s).lastPulseLength = s.lastPulseLength := rfl
@[simp] theorem commitBit_pulseCount (b : Bool) (s : State) : (commitBit b s).pulseCount = s.pulseCount := rfl
@[simp] theorem commitBit_frame (b : Bool) (s : State) : (commitBit b s).frame = shiftIn s.frame b := rfl
@[simp] theorem commitBit_ready (b : Bool) (s : State) :
    (commitBit b s).ready = (s.ready || canDecode s.config (shiftIn s.frame b)) := rfl
@[simp] theorem commitBit_fault (b : Bool) (s : State) : (commitBit b s).fault = s.fault := rfl
@[simp] theorem commitBit_faultCause (b : Bool) (s : State) : (commitBit b s).faultCause = s.faultCause := rfl
@[simp] theorem commitBit_out (b : Bool) (s : State) : (commitBit b s).out = s.out := rfl
@[simp] theorem commitBit_issued (b : Bool) (s : State) : (commitBit b s).issued = s.issued := rfl

/-- Either nothing is committed, or one bit is. -/
theorem commitIfAny_cases (b : Option Bool) (s : State) :
    (b = none ∧ commitIfAny b s = s) ∨ ∃ x, b = some x ∧ commitIfAny b s = commitBit x s := by
  cases b with
  | none => exact .inl ⟨rfl, rfl⟩
  | some x => exact .inr ⟨x, rfl, rfl⟩

/-- A dropped edge (R72). -/
theorem gate_ready (op : State → State) {s : State} (h : s.ready = true) : gate op s = s := by simp [gate, h]

/-- An accepted edge. -/
theorem gate_open (op : State → State) {s : State} (h : s.ready = false) : gate op s = op s := by simp [gate, h]

/-- A falling edge whose sum is noise keeps the sum and nothing else (R74). -/
theorem fallingEdge_noise {d : Word} {s : State} (h : classify s.config (s.pulseClocks + d) = .noise) :
    fallingEdge d s = { s with pulseClocks := s.pulseClocks + d } := by
  simp [fallingEdge, pulseSum, h, State.withPulseClocks]

/-- A falling edge whose sum is a pulse keeps the sum and updates the run (R76, R77). -/
theorem fallingEdge_pulse {d : Word} {s : State} {c : PulseClass}
    (h : classify s.config (s.pulseClocks + d) = .pulse c) :
    fallingEdge d s = acceptPulse c { s with pulseClocks := s.pulseClocks + d } := by
  simp [fallingEdge, pulseSum, h, State.withPulseClocks]

/-- READ with a frame waiting (R90). -/
theorem readFrame_ready {s : State} (h : s.ready = true) :
    readFrame s = { s with ready := false, out := { ok := some true, frameOut := some s.frame } } := by
  simp [readFrame, h, State.withReady, State.withOut]

/-- READ with no frame waiting (R90). -/
theorem readFrame_empty {s : State} (h : s.ready = false) : readFrame s = { s with out := { ok := some false } } := by
  simp [readFrame, h, State.withOut]

/-- RESET_STATE (R91). -/
theorem clearRun_eq (s : State) :
    clearRun s = { s with lastPulseLength := .short, pulseCount := 0, ready := false, pulseClocks := 0#32 } := rfl

end Sys2Proof.Machine
end

