-- ==== Sys2Proof/Laws/Step.lean ====
section
/-! SUPPORT. What a step can do, and what `withFetchWord` places. -/

namespace Sys2Proof.Machine

/-- What the block does with a command: the branches before the operation proper (R136). -/
theorem perform_cons {s : State} {c : Command} {rest : List Command} (h : s.issued = c :: rest) :
    perform s =
      if s.fault then .next { s with issued := rest, out := {} }
      else match decodeCommand c with
        | .error why => .refused (.reservedWord why)
        | .ok i => exec i { s with issued := rest } := by
  rw [perform, takeCommand_cons h]; rfl

/-- With nothing issued there is no step. -/
theorem step_nil {s : State} (h : s.issued = []) : step s = .refused .noOperation := by
  rw [step, perform, takeCommand_nil h]; rfl

/-- A step of a faulted block ends the run, in the state it was in (R134). -/
theorem step_faulted {s : State} {c : Command} {rest : List Command} (h : s.issued = c :: rest) (hf : s.fault = true) :
    step s = .fault (.fatal { s with issued := rest, out := {} }) := by
  rw [step, perform_cons h, if_pos hf]
  exact outcomeOf_faulted hf

/-- A reserved word is refused by name (R55). -/
theorem step_reserved {s : State} {c : Command} {rest : List Command} {why : Reserved} (h : s.issued = c :: rest)
    (hf : s.fault = false) (hd : decodeCommand c = .error why) : step s = .refused (.reservedWord why) := by
  rw [step, perform_cons h, if_neg (by simp [hf]), hd]; rfl

/-- The step of a live block is the outcome of the operation that the next command decodes to. -/
theorem step_ok {s : State} {c : Command} {rest : List Command} {i : Instr} (h : s.issued = c :: rest)
    (hf : s.fault = false) (hd : decodeCommand c = .ok i) : step s = outcomeOf (exec i { s with issued := rest }) := by
  rw [step, perform_cons h, if_neg (by simp [hf]), hd]

/-- Everything a step can do: refuse, end the run in a faulted block, or answer the outcome of the next operation. -/
theorem step_cases (s : State) :
    (∃ r, step s = .refused r) ∨
    (∃ c rest, s.issued = c :: rest ∧ s.fault = true ∧ step s = .fault (.fatal { s with issued := rest, out := {} })) ∨
    ∃ c rest i, s.issued = c :: rest ∧ s.fault = false ∧ decodeCommand c = .ok i ∧
      step s = outcomeOf (exec i { s with issued := rest }) := by
  cases hs : s.issued with
  | nil => exact .inl ⟨_, step_nil hs⟩
  | cons c rest =>
    rcases Bool.eq_false_or_eq_true s.fault with hf | hf
    · exact .inr (.inl ⟨c, rest, rfl, hf, step_faulted hs hf⟩)
    · cases hd : decodeCommand c with
      | error why => exact .inl ⟨_, step_reserved hs hf hd⟩
      | ok i => exact .inr (.inr ⟨c, rest, i, rfl, hf, hd, step_ok hs hf hd⟩)

/-- A step that answers a next state performed the next operation, and no fatal failure was raised (R133). -/
theorem step_next {s t : State} (h : step s = .next t) :
    ∃ c rest i, s.issued = c :: rest ∧ s.fault = false ∧ decodeCommand c = .ok i ∧
      exec i { s with issued := rest } = .next t ∧ t.fault = false := by
  obtain ⟨r, e⟩ | ⟨c, rest, -, -, e⟩ | ⟨c, rest, i, hs, hf, hd, e⟩ := step_cases s <;> rw [e] at h
  · cases h
  · cases h
  · exact ⟨c, rest, i, hs, hf, hd, outcomeOf_next h⟩

/-- `withFetchWord` puts the word, with zeros on the data ports, where the next step takes its command. -/
theorem takeCommand_withFetchWord (s : State) (nbits w : Nat) :
    takeCommand (s.withFetchWord nbits w) =
      some (commandOfNat (w % 2 ^ nbits), { s with issued := s.issued.tail }) := rfl

/-- One step of a run. -/
theorem run_one (s : State) : core.run 1 s = step s := by
  have h : core.step = step := rfl
  simp only [Host.Core.run]
  rw [h]
  cases step s <;> rfl

/-- A run of `a + b` operations is a run of `b` after a run of `a`. -/
theorem run_add (a b : Nat) (s : State) :
    core.run (a + b) s = match core.run a s with
      | .next t => core.run b t
      | .fault r => .fault r
      | .refused r => .refused r := by
  induction a generalizing s with
  | zero => rw [Nat.zero_add]; rfl
  | succ a ih =>
    rw [show a + 1 + b = (a + b) + 1 by omega]
    simp only [Host.Core.run]
    cases core.step s with
    | next t => exact ih t
    | fault r => rfl
    | refused r => rfl

end Sys2Proof.Machine
end

