-- ==== Sys2Proof/Laws/Exec.lean ====
section
/-! SUPPORT. One form for all operations: each is `operate` of what it does to a live state, and the size preconditions
are R131's table. -/

namespace Sys2Proof.Machine

open Sys2Proof.Safety

/-- READ's precondition in numbers (R131). -/
theorem readTooSmall_iff (n : Word) : readTooSmall n = true ↔ n.toNat < 4 := by
  rw [readTooSmall, decide_eq_true_eq, frameWords]

/-- ENCODE's precondition in numbers (R131). -/
theorem encodeTooSmall_iff (n m : Word) : encodeTooSmall n m = true ↔ n.toNat < 5 ∨ m.toNat < 16 := by
  rw [encodeTooSmall, Bool.or_eq_true, decide_eq_true_eq, decide_eq_true_eq, decodedSize, encodedSize]

/-- DECODE's precondition in numbers (R131). -/
theorem decodeTooSmall_iff (n m : Word) : decodeTooSmall n m = true ↔ n.toNat < 16 ∨ m.toNat < 5 := by
  rw [decodeTooSmall, Bool.or_eq_true, decide_eq_true_eq, decide_eq_true_eq, decodedSize, encodedSize]

/-- What an operation does to a state with `fault = 0` and nothing driven. -/
def operation : Instr → State → State
  | .edgeR d => gate (risingEdge d)
  | .edgeF d => gate (fallingEdge d)
  | .read n => checkSize (readTooSmall n) .readSize readFrame
  | .resetState => clearRun
  | .encode n m P => checkSize (encodeTooSmall n m) .encodeSize fun s =>
      s.withOut { wireOut := some (encodeFrame s.config P) }
  | .decode n m S => checkSize (decodeTooSmall n m) .decodeSize fun s =>
      s.withOut { payloadOut := some (decodeFrame S) }
  | .canDecode n S => fun s => s.withOut { ok := some (canDecodeAnswer s.config n S) }
  | .encSize => fun s => s.withOut { sizeOut := some 16#8 }
  | .decSize => fun s => s.withOut { sizeOut := some 5#8 }

/-- Every operation answers a next state: the operation, gated by the fault latch. -/
theorem exec_eq (i : Instr) (s : State) : exec i s = .next (operate (operation i) s) := by cases i <;> rfl

/-- A faulted block does nothing (R134). -/
theorem exec_faulted (i : Instr) {s : State} (h : s.fault = true) : exec i s = .next (quiet s) := by
  rw [exec_eq, operate_faulted _ h]

/-- With `fault = 0` the operation acts on the state with nothing driven. -/
theorem exec_live (i : Instr) {s : State} (h : s.fault = false) : exec i s = .next (operation i (quiet s)) := by
  rw [exec_eq, operate_live _ h]

/-- A next state is that of the faulted block, or the operation's. -/
theorem exec_next {i : Instr} {s t : State} (h : exec i s = .next t) :
    (s.fault = true ∧ t = quiet s) ∨ (s.fault = false ∧ t = operation i (quiet s)) := by
  rw [exec_eq] at h
  injection h with h
  rcases operate_cases (operation i) s with ⟨hf, e⟩ | ⟨hf, e⟩
  · exact .inl ⟨hf, by rw [← h, e]⟩
  · exact .inr ⟨hf, by rw [← h, e]⟩

/-- Where R131 gives an operation a cause, it raises Fatal and does nothing else. -/
theorem operation_fatal {i : Instr} (h : fatalCauseOf i ≠ .none) (s : State) :
    operation i s = raiseFatal (fatalCauseOf i) s := by
  cases i with
  | read n =>
    have h' : n.toNat < 4 := by by_contra hn; exact h (if_neg hn)
    rw [operation, (readTooSmall_iff n).2 h', checkSize_fails, fatalCauseOf, if_pos h']
  | encode n m P =>
    have h' : n.toNat < 5 ∨ m.toNat < 16 := by by_contra hn; exact h (if_neg hn)
    rw [operation, (encodeTooSmall_iff n m).2 h', checkSize_fails, fatalCauseOf, if_pos h']
  | decode n m S =>
    have h' : n.toNat < 16 ∨ m.toNat < 5 := by by_contra hn; exact h (if_neg hn)
    rw [operation, (decodeTooSmall_iff n m).2 h', checkSize_fails, fatalCauseOf, if_pos h']
  | edgeR d => exact absurd rfl h
  | edgeF d => exact absurd rfl h
  | resetState => exact absurd rfl h
  | canDecode n S => exact absurd rfl h
  | encSize => exact absurd rfl h
  | decSize => exact absurd rfl h

/-- A step whose operation has a fatal cause ends the run, with only the latch written (R133). -/
theorem step_fatal {s : State} {c : Command} {rest : List Command} {i : Instr} (h : s.issued = c :: rest)
    (hf : s.fault = false) (hd : decodeCommand c = .ok i) (hc : fatalCauseOf i ≠ .none) :
    step s =
      .fault (.fatal { s with issued := rest, out := {}, fault := true, faultCause := fatalCauseOf i }) := by
  rw [step_ok h hf hd, exec_live i (s := { s with issued := rest }) hf, operation_fatal hc, outcomeOf_faulted rfl]
  rfl

/-- An operation to which R131 gives no cause leaves the latch alone. -/
theorem operation_keeps_latch {i : Instr} (h : fatalCauseOf i = .none) (s : State) :
    (operation i s).fault = s.fault ∧ (operation i s).faultCause = s.faultCause := by
  cases i with
  | edgeR d => simp only [operation, gate]; split <;> exact ⟨rfl, rfl⟩
  | edgeF d =>
    simp only [operation, gate, fallingEdge, acceptPulse]
    split
    · exact ⟨rfl, rfl⟩
    · split
      · exact ⟨rfl, rfl⟩
      · simp only [commitIfAny]
        split <;> exact ⟨rfl, rfl⟩
  | read n =>
    have hn : ¬ n.toNat < 4 := fun hn => by simp [fatalCauseOf, hn] at h
    rw [operation, Bool.eq_false_iff.2 (mt (readTooSmall_iff n).1 hn), checkSize_passes, readFrame]
    split <;> exact ⟨rfl, rfl⟩
  | resetState => exact ⟨rfl, rfl⟩
  | encode n m P =>
    have hn : ¬ (n.toNat < 5 ∨ m.toNat < 16) := fun hn => by simp [fatalCauseOf, hn] at h
    rw [operation, Bool.eq_false_iff.2 (mt (encodeTooSmall_iff n m).1 hn), checkSize_passes]
    exact ⟨rfl, rfl⟩
  | decode n m S =>
    have hn : ¬ (n.toNat < 16 ∨ m.toNat < 5) := fun hn => by simp [fatalCauseOf, hn] at h
    rw [operation, Bool.eq_false_iff.2 (mt (decodeTooSmall_iff n m).1 hn), checkSize_passes]
    exact ⟨rfl, rfl⟩
  | canDecode n S => exact ⟨rfl, rfl⟩
  | encSize => exact ⟨rfl, rfl⟩
  | decSize => exact ⟨rfl, rfl⟩

/-- A step whose operation has no fatal cause is that operation. -/
theorem step_live {s : State} {c : Command} {rest : List Command} {i : Instr} (h : s.issued = c :: rest)
    (hf : s.fault = false) (hd : decodeCommand c = .ok i) (hc : fatalCauseOf i = .none) :
    step s = exec i { s with issued := rest } := by
  rw [step_ok h hf hd, exec_live i (s := { s with issued := rest }) hf]
  exact outcomeOf_live ((operation_keeps_latch hc _).1.trans hf)

/-- READ with a sufficient size (R90). -/
theorem operation_read {n : Word} (h : 4 ≤ n.toNat) (s : State) : operation (.read n) s = readFrame s := by
  rw [operation, Bool.eq_false_iff.2 (mt (readTooSmall_iff n).1 (by omega)), checkSize_passes]

/-- ENCODE with sufficient sizes (R114). -/
theorem operation_encode {n m : Word} (hn : 5 ≤ n.toNat) (hm : 16 ≤ m.toNat) (P : Payload) (s : State) :
    operation (.encode n m P) s = { s with out := { wireOut := some (encodeFrame s.config P) } } := by
  rw [operation, Bool.eq_false_iff.2 (mt (encodeTooSmall_iff n m).1 (by omega)),
    checkSize_passes]
  rfl

/-- DECODE with sufficient sizes (R115). -/
theorem operation_decode {n m : Word} (hn : 16 ≤ n.toNat) (hm : 5 ≤ m.toNat) (S : Frame) (s : State) :
    operation (.decode n m S) s = { s with out := { payloadOut := some (decodeFrame S) } } := by
  rw [operation, Bool.eq_false_iff.2 (mt (decodeTooSmall_iff n m).1 (by omega)),
    checkSize_passes]
  rfl

end Sys2Proof.Machine
end

