-- ==== Sys2Proof/Laws/PerInstr.lean ====
section
/-! SUPPORT. Statements made for every operation, one lemma for each constructor of `Instr`. -/

namespace Sys2Proof.Laws.UnreservedRow

/-- The encoder gives the operation a word that is not reserved and that belongs to its row of the opcode table
(R51, R55). -/
def Statement (i : Instr) : Prop :=
  (fieldsOf (encodeCommand i).cmd).wellFormed = true ∧ (opcodeRow i).covers (encodeCommand i).cmd = true

/-- The mask of a row with the operand `a` only. -/
def maskA : Fields := ⟨7#3, 1#1, 0#32, 0xFFFFFFFF#32⟩
/-- The mask of a row with both operands. -/
def maskAB : Fields := ⟨7#3, 1#1, 0#32, 0#32⟩
/-- The mask of a row with no operand. -/
def maskNone : Fields := ⟨7#3, 1#1, 0xFFFFFFFF#32, 0xFFFFFFFF#32⟩

theorem edgeR (d : Word) : Statement (.edgeR d) := by
  refine ⟨by simp [encodeCommand, Fields.wellFormed, Fields.rOk, Fields.aOk, Fields.bOk], ?_⟩
  exact (covers_iff maskA ⟨0#3, 1#1, 0#32, 0#32⟩ rfl rfl _).2 (by simp [encodeCommand, maskA])

theorem edgeF (d : Word) : Statement (.edgeF d) := by
  refine ⟨by simp [encodeCommand, Fields.wellFormed, Fields.rOk, Fields.aOk, Fields.bOk], ?_⟩
  exact (covers_iff maskA ⟨0#3, 0#1, 0#32, 0#32⟩ rfl rfl _).2 (by simp [encodeCommand, maskA])

theorem read (n : Word) : Statement (.read n) := by
  refine ⟨by simp [encodeCommand, Fields.wellFormed, Fields.rOk, Fields.aOk, Fields.bOk], ?_⟩
  exact (covers_iff maskA ⟨1#3, 0#1, 0#32, 0#32⟩ rfl rfl _).2 (by simp [encodeCommand, maskA])

theorem resetState : Statement .resetState := by unfold Statement; decide

theorem encode (n m : Word) (P : Payload) : Statement (.encode n m P) := by
  refine ⟨by simp [encodeCommand, Fields.wellFormed, Fields.rOk, Fields.aOk, Fields.bOk], ?_⟩
  exact (covers_iff maskAB ⟨3#3, 0#1, 0#32, 0#32⟩ rfl rfl _).2 (by simp [encodeCommand, maskAB])

theorem decode (n m : Word) (S : Frame) : Statement (.decode n m S) := by
  refine ⟨by simp [encodeCommand, Fields.wellFormed, Fields.rOk, Fields.aOk, Fields.bOk], ?_⟩
  exact (covers_iff maskAB ⟨4#3, 0#1, 0#32, 0#32⟩ rfl rfl _).2 (by simp [encodeCommand, maskAB])

theorem canDecode (n : Word) (S : Frame) : Statement (.canDecode n S) := by
  refine ⟨by simp [encodeCommand, Fields.wellFormed, Fields.rOk, Fields.aOk, Fields.bOk], ?_⟩
  exact (covers_iff maskA ⟨5#3, 0#1, 0#32, 0#32⟩ rfl rfl _).2 (by simp [encodeCommand, maskA])

theorem encSize : Statement .encSize := by unfold Statement; decide

theorem decSize : Statement .decSize := by unfold Statement; decide

end Sys2Proof.Laws.UnreservedRow
end

