-- ==== Sys2Proof/Tests/Slice0.lean ====
section
/-! SUPPORT. The model's own tests. Expected values are those of spec/95_test_vectors.md (its section is named) or are worked
out by hand from the rule named, under the spec's test instantiation T; T is a test's choice and no rule's (D23). The
theorems named witness_<Obligation> show that the hypotheses of a statement can be met, at the ends of their ranges. -/

namespace Sys2Proof.Tests

open Sys2Proof Sys2Proof.Machine Sys2Proof.Safety

/-- Instantiation T of 00_scope.md section 4: 64 ticks per microsecond, OEM 0000001, format 00000001010, `F` 0. -/
def paramsT : Params := ⟨63, 0b0000001#7, 0b00000001010#11, 0#128⟩

/-- A state under T, written as 95_test_vectors.md writes it. -/
def st (clocks : Word) (last : PulseClass) (count : Nat) (ready : Bool) (F : Frame) : State :=
  { State.created paramsT with
    pulseClocks := clocks, lastPulseLength := last, pulseCount := count, ready := ready, frame := F }

/-- The state with the latch set, as READ with `min_size < 4` leaves it. -/
def faulted (s : State) : State := { s with fault := true, faultCause := .readSize }

/-- The state after an operation, if it answers one. -/
def after (i : Instr) (s : State) : Option State :=
  match exec i s with
  | .next t => some t
  | .fault _ => none
  | .refused _ => none

/-- The state after a step, if it answers one. -/
def afterStep (s : State) : Option State :=
  match step s with
  | .next t => some t
  | .fault _ => none
  | .refused _ => none

/-- The state in which a step ended the run, if it ended it as *fault*. -/
def faultedStep (s : State) : Option State :=
  match step s with
  | .next _ => none
  | .fault (.fatal t) => some t
  | .refused _ => none

/-- The five elements that 95_test_vectors.md writes. -/
def five (s : State) : Word × PulseClass × Nat × Bool × Frame :=
  (s.pulseClocks, s.lastPulseLength, s.pulseCount, s.ready, s.frame)

/-! ## WellFormed: one ill-formed word for each check (section 2 and R55) -/

/-- RESET_STATE with `r = 1` (section 2). -/
theorem test_wellFormed_r : (fieldsOf 0x50000000000000000#68).rOk = false ∧
    (fieldsOf 0x50000000000000000#68).wellFormed = false := by decide

/-- ENC_SIZE with `a = 1`. -/
theorem test_wellFormed_a : (fieldsOf 0xC0000000100000000#68).aOk = false ∧
    (fieldsOf 0xC0000000100000000#68).wellFormed = false := by decide

/-- READ 4 with `b = 1` (section 2). -/
theorem test_wellFormed_b : (fieldsOf 0x20000000400000001#68).bOk = false ∧
    (fieldsOf 0x20000000400000001#68).wellFormed = false := by decide

/-! ## Decoding: a word of every operation, from section 2 or bit by bit from R50 and R51 -/

theorem test_decode_edgeR : decodeTableWord 72 0x100000A0000000000 = some (.edgeR 2560#32) := by decide
theorem test_decode_edgeF : decodeTableWord 72 0x000000C8100000000 = some (.edgeF 3201#32) := by decide
theorem test_decode_read : decodeTableWord 72 0x20000000300000000 = some (.read 3#32) := by decide
theorem test_decode_resetState : decodeTableWord 72 0x40000000000000000 = some .resetState := by decide

/-- `op = 011`, `r = 0`, `a = 4`, `b = 16` (ENCODE 4, 16), written bit by bit. -/
theorem test_decode_encode :
    decodeCommand ⟨0b011_0_00000000000000000000000000000100_00000000000000000000000000010000#68, 0x1234567890#40, 1#128⟩ =
      .ok (.encode 4#32 16#32 0x1234567890#40) := by decide

/-- `op = 100`, `r = 0`, `a = 16`, `b = 5` (DECODE 16, 5), written bit by bit; `payload_in` is ignored. -/
theorem test_decode_decode :
    decodeCommand ⟨0b100_0_00000000000000000000000000010000_00000000000000000000000000000101#68, 7#40, 9#128⟩ =
      .ok (.decode 16#32 5#32 9#128) := by decide

theorem test_decode_canDecode : decodeTableWord 72 0xA0000000F00000000 = some (.canDecode 15#32 0#128) := by decide
theorem test_decode_encSize : decodeTableWord 72 0xC0000000000000000 = some .encSize := by decide
theorem test_decode_decSize : decodeTableWord 72 0xE0000000000000000 = some .decSize := by decide

/-- The reserved words are refused by name (R55). -/
theorem test_decode_reserved :
    decodeCommand ⟨0x20000000400000001#68, 0, 0⟩ = .error .nonzeroB ∧
    decodeCommand ⟨0x50000000000000000#68, 0, 0⟩ = .error .nonzeroR ∧
    decodeCommand ⟨0xC0000000100000000#68, 0, 0⟩ = .error .nonzeroA := by decide

/-- A number of more than 68 bits is no command word. -/
theorem test_decode_too_long : decodeTableWord 72 0x140000000000000000 = none := by decide

/-! ## The edge operations (sections 3.1 to 3.5) -/

/-- R70's example. -/
theorem test_edgeR : (after (.edgeR 2048#32) (st 7#32 .short 0 false 0)).map five =
    some (2048#32, .short, 0, false, 0) := by decide

/-- Section 3.1: the eight widths, from `(0, 0, 2, 0, F)`. -/
theorem test_edgeF_classes :
    [0, 2816, 2817, 4607, 4608, 6399, 6400, 6401].map (fun t =>
      ((after (.edgeF (BitVec.ofNat 32 t)) (st 0 .short 2 false 1)).map fun s =>
        (s.pulseClocks.toNat, s.lastPulseLength, s.pulseCount))) =
    [some (0, .short, 2), some (2816, .short, 2), some (2817, .short, 3), some (4607, .short, 3),
      some (4608, .long, 0), some (6399, .long, 0), some (6400, .short, 2), some (6401, .short, 2)] := by decide

/-- Section 3.4: the shift completes a frame, `ready` rises, and the class change still happens. -/
theorem test_edgeF_detects :
    (after (.edgeF 2560#32) (st 2560#32 .short 5 false 0x0003AAAB2AAB32AB2CAD32B334B54AAB#128)).map five =
      some (5120#32, .long, 0, true, 0x0007555655566556595A6566696A9556#128) := by decide

/-- Section 3.2: the eleven rows of the run update, with `F` after. -/
theorem test_runUpdate_rows :
    [(PulseClass.short, 4, PulseClass.short), (.short, 5, .short), (.long, 3, .long), (.long, 4, .long),
      (.short, 3, .long), (.short, 4, .long), (.short, 5, .long), (.long, 2, .short), (.long, 3, .short),
      (.long, 4, .short), (.short, 0, .long)].map (fun r =>
        let s := acceptPulse r.2.2 (st 0 r.1 r.2.1 false 1)
        (s.lastPulseLength, s.pulseCount, s.frame.toNat)) =
    [(.short, 5, 1), (.short, 0, 2), (.long, 4, 1), (.long, 0, 3), (.long, 0, 1), (.long, 0, 2), (.long, 0, 2),
      (.short, 0, 1), (.short, 0, 3), (.short, 0, 3), (.long, 0, 1)] := by decide

/-- Section 3.3: the top bit is lost, the top bit of each other word moves up. -/
theorem test_shift : shiftIn 0x80000000800000008000000080000001#128 true =
    0x00000001000000010000000100000003#128 := by decide

/-! ## READ and RESET_STATE (section 4, R90's and R91's examples) -/

theorem test_read :
    (after (.read 1000#32) (st 5120#32 .long 0 true 0x0007555655566556595A6566696A9556#128)).map
      (fun s => (s.ready, s.out.ok, s.out.frameOut, s.frame)) =
    some (false, some true, some 0x0007555655566556595A6566696A9556#128,
      0x0007555655566556595A6566696A9556#128) := by decide

/-- READ 3 is fatal, and `ready` stays 1. -/
theorem test_read_fatal : (after (.read 3#32) (st 5120#32 .long 0 true 5)).map
    (fun s => (s.levels, s.out.ok, s.pulseClocks, s.pulseCount)) =
    some ((true, true, 1#2), none, 5120#32, 0) := by decide

theorem test_resetState : (after .resetState (st 5120#32 .long 4 true 5)).map five =
    some (0#32, .short, 0, false, 5) := by decide

/-! ## The codec (section 5) -/

/-- Section 5.2: the frames of two payloads under T. -/
theorem test_encode :
    encodeFrame paramsT 0x0000000100#40 = 0x00075556555665555555555555555655#128 ∧
    encodeFrame paramsT 0xDEADBEEF55#40 = 0x00075556555665A6A999A69AA9A9AA56#128 := by decide

/-- ENCODE 4, 16 and DECODE 16, 4 are fatal, each with its code (section 5.5, R131). -/
theorem test_codec_fatal :
    (after (.encode 4#32 16#32 0) (st 0 .short 0 false 0)).map (·.levels) = some (false, true, 2#2) ∧
    (after (.decode 16#32 4#32 0) (st 0 .short 0 false 0)).map (·.levels) = some (false, true, 3#2) := by decide

/-- Section 5.1: value and parity bits; bit 17 is in both ranges. -/
theorem test_parity :
    value35 0x123456789A#40 = 0x091A2B3C0#35 ∧
    evenParity (value35 0x0000400000#40) = true ∧ oddParity (value35 0x0000400000#40) = false ∧
    evenParity (value35 0x8000000000#40) = true ∧ oddParity (value35 0x8000000000#40) = true := by decide

/-- Section 5.3: an invalid odd-parity pair, an invalid value pair. -/
theorem test_decode_odd_parity_pair :
    decodeFrame 0x00075556555665A6A999A69AA9A9AA57#128 = 0x037AB6FBBC#40 := by decide +kernel

theorem test_decode_value_pair :
    decodeFrame 0x00075556555665A6A999A69AA9A9A256#128 = 0x037AB6FBB8#40 := by decide +kernel

/-- Section 5.4. -/
theorem test_canDecode :
    [(16#32, 0#128), (16#32, 0xFFFFFFFFFFFFFFFFFFFFFFFFFFFFFFFF#128),
      (16#32, 0x0007155655566556595A6566696A9556#128), (16#32, 0x0007555755566556595A6566696A9556#128),
      (16#32, 0xFFC7555655566556595A6566696A9556#128), (16#32, 0x00075556000000000000000000000000#128),
      (15#32, 0x00075556000000000000000000000000#128)].map (fun x => canDecodeAnswer paramsT x.1 x.2) =
    [false, false, false, false, true, true, false] := by decide

theorem test_sizes : (after .encSize (st 0 .short 0 true 0)).map (·.out.sizeOut) = some (some 16#8) ∧
    (after .decSize (st 0 .short 0 true 0)).map (·.out.sizeOut) = some (some 5#8) := by decide

/-! ## Notation (R56, R57) and the step -/

/-- `EDGE.F 3201`, and the expansion of `PULSE 5` into 2 and 3 ticks. -/
theorem test_notation : traceLine (.edgeF 3201#32) = ⟨"EDGE.F", [3201], []⟩ ∧
    macroPulse 5#32 = [.edgeR 2#32, .edgeF 3#32] := by decide

/-- `S<10..18>` of an encoded frame is the preamble (R110). -/
theorem test_rawBits : rawBits 0x0007555655566556595A6566696A9556#128 10 18 =
    [false, false, false, true, true, true, false, true] := by decide

/-- A word placed by `withFetchWord` is the first operation after reset: READ 4 finds no frame, and READ 3 ends the
run as *fault* with the latch set and no other change (program E, step 1). -/
theorem test_first_operation :
    (afterStep (State.reset.withFetchWord 72 0x20000000400000000)).map (fun s => (s.fault, s.out.ok)) =
      some (false, some false) ∧
    (faultedStep (State.reset.withFetchWord 72 0x20000000300000000)).map
      (fun s => (s.fault, s.faultCause, s.ready, s.pulseClocks)) = some (true, .readSize, false, 0#32) := by decide

/-- In a faulted block RESET_STATE and a reserved word do nothing (program E, step 3, and R136); the outcome stays *fault*. -/
theorem test_faulted_step :
    (faultedStep ((faulted (st 7#32 .long 2 false 1)).withFetchWord 72 0x40000000000000000)).map five =
      some (five (st 7#32 .long 2 false 1)) ∧
    (faultedStep ((faulted (st 7#32 .long 2 false 1)).withFetchWord 72 0x50000000000000000)).map five =
      some (five (st 7#32 .long 2 false 1)) := by decide

/-! ## Witnesses: the hypotheses of the statements can be met -/

/-- The frame of program C. -/
def frameC : Frame := 0x0007555655566556595A6566696A9556#128
/-- That frame one place short, as before the commit that completes it (section 3.4). -/
def frameShort : Frame := 0x0003AAAB2AAB32AB2CAD32B334B54AAB#128

/-- Both ends of the range of `CLOCKS_PER_US`. -/
theorem witness_ThresholdsFollowClocksPerUs :
    (0 < 1 ∧ 100 * 1 < 2 ^ 32) ∧ 0 < 42949672 ∧ 100 * 42949672 < 2 ^ 32 := by decide

/-- A command that decodes although a port it ignores is driven, and a reserved one. -/
theorem witness_EncodeInvertsDecode :
    decodeCommand ⟨0x20000000400000000#68, 5#40, 6#128⟩ = .ok (.read 4#32) := by decide

theorem witness_OpcodeTableIsUnambiguous :
    decodeCommand ⟨0xE0000000000000000#68, 0, 0⟩ = .ok .decSize ∧
    decodeCommand ⟨0xE0000000000000001#68, 0, 0⟩ = .error .nonzeroB := by decide

theorem witness_StepPerformsTheNextOperation :
    ∃ (s : State) (c : Command) (rest : List Command) (i : Instr),
      s.issued = c :: rest ∧ s.fault = false ∧ decodeCommand c = .ok i :=
  ⟨(st 0 .short 0 false 0).issue (encodeCommand .encSize), encodeCommand .encSize, [], .encSize,
    by decide, by decide, by decide⟩

/-- One command for each of the three branches: a faulted block, a reserved word, a size below the precondition. -/
theorem witness_StepTestsInOrder :
    (∃ (s : State) (c : Command), s.issued = [c] ∧ s.fault = true) ∧
    (∃ (s : State) (c : Command), s.issued = [c] ∧ s.fault = false ∧ decodeCommand c = .error .nonzeroR) ∧
    ∃ (s : State) (c : Command) (i : Instr), s.issued = [c] ∧ s.fault = false ∧ s.ready = true ∧
      decodeCommand c = .ok i ∧ fatalCauseOf i ≠ .none :=
  ⟨⟨(faulted (st 0 .short 0 false 0)).issue ⟨0x50000000000000000#68, 0, 0⟩, _, rfl, rfl⟩,
    ⟨(st 0 .short 0 false 0).issue ⟨0x50000000000000000#68, 0, 0⟩, _, rfl, rfl, by decide⟩,
    ⟨(st 0 .short 0 true 0).issue ⟨0x20000000300000000#68, 0, 0⟩, _, .read 3#32, rfl, rfl, rfl, by decide, by decide⟩⟩

/-- Both values of `ready`. -/
theorem witness_RisingEdgeStoresDuration :
    (st 7#32 .short 0 false 0).fault = false ∧ (st 7#32 .short 0 true 0).fault = false := by decide

theorem witness_EdgesAreDroppedWhileReady :
    (st 5120#32 .long 0 true frameC).fault = false ∧ (st 5120#32 .long 0 true frameC).ready = true := by decide

/-- Two edges behind a set `ready`. -/
theorem witness_BackpressureLosesEveryEdge :
    let edges : List Instr := [.edgeR 2048#32, .edgeF 2048#32]
    let s : State := (st 5120#32 .long 0 true frameC).withIssued (edges.map encodeCommand)
    s.fault = false ∧ s.ready = true ∧ (∀ i ∈ edges, isEdge i = true) ∧ s.issued = edges.map encodeCommand ++ [] := by
  decide

/-- Noise at both ends: the sum is `MIN_CLOCKS`, and it is `MAX_CLOCKS`. -/
theorem witness_NoiseLeavesTheRunUntouched :
    (st 0 .short 2 false 1).fault = false ∧ (st 0 .short 2 false 1).ready = false ∧
    ∀ d, d = 2816#32 ∨ d = 6400#32 → ¬ (44 * clocksPerUs (st 0 .short 2 false 1).config <
      ((st 0 .short 2 false 1).pulseClocks.toNat + d.toNat) % 2 ^ 32 ∧
      ((st 0 .short 2 false 1).pulseClocks.toNat + d.toNat) % 2 ^ 32 <
        100 * clocksPerUs (st 0 .short 2 false 1).config) := by
  refine ⟨rfl, rfl, ?_⟩
  rintro d (rfl | rfl) <;> simp [st, paramsT, clocksPerUs, State.created]

/-- The first and last width of each class. -/
theorem witness_FallingEdgeUpdatesTheRun :
    (st 0 .short 2 false 1).fault = false ∧ (st 0 .short 2 false 1).ready = false ∧
    ∀ d, d = 2817#32 ∨ d = 4607#32 ∨ d = 4608#32 ∨ d = 6399#32 →
      44 * clocksPerUs (st 0 .short 2 false 1).config <
        ((st 0 .short 2 false 1).pulseClocks.toNat + d.toNat) % 2 ^ 32 ∧
      ((st 0 .short 2 false 1).pulseClocks.toNat + d.toNat) % 2 ^ 32 <
        100 * clocksPerUs (st 0 .short 2 false 1).config := by
  refine ⟨rfl, rfl, ?_⟩
  rintro d (rfl | rfl | rfl | rfl) <;> simp [st, paramsT, clocksPerUs, State.created]

/-- Both classes, at the counts on either side of the threshold. -/
theorem witness_SameClassPulseExtendsTheRun :
    ∀ x ∈ [(PulseClass.short, 4), (.short, 5), (.long, 3), (.long, 4)],
      x.1 = (st 0 x.1 x.2 false 1).lastPulseLength := by decide

theorem witness_ClassChangeEndsTheRun :
    ∀ x ∈ [(PulseClass.short, 3), (.short, 4)], PulseClass.long ≠ (st 0 x.1 x.2 false 1).lastPulseLength := by decide

/-- Section 3.4: the commit that completes a frame. -/
theorem witness_ReadyRisesOnlyAtADetectedCommit :
    ∃ t, exec (.edgeF 2560#32) (st 2560#32 .short 5 false frameShort) = .next t ∧
      (st 2560#32 .short 5 false frameShort).ready = false ∧ t.ready = true :=
  ⟨_, rfl, rfl, by decide⟩

theorem witness_FrameMovesByAtMostOneBit :
    ∃ t, exec (.edgeF 2560#32) (st 2560#32 .short 5 false frameShort) = .next t := ⟨_, rfl⟩

theorem witness_RunAccountingAfterAChange : PulseClass.short ≠ .long ∧ PulseClass.long ≠ .short ∧ 1 ≤ 1 := by decide

theorem witness_RunAccountingAfterReset : 1 ≤ 1 := by decide

/-- One short pulse in two halves, after which `ready` is still 0. -/
theorem witness_PulseTrainRefinesRunAccounting :
    let s : State := (st 0 .short 0 false 0).withIssued ([(2048#32, 2048#32)].flatMap pulseCommands)
    s.fault = false ∧ s.ready = false ∧ s.issued = [(2048#32, 2048#32)].flatMap pulseCommands ++ [] ∧
      ((afterStep s).bind afterStep).map (·.ready) = some false := by decide

/-- The greatest size that is too small, and the least that is enough, with and without a frame waiting. -/
theorem witness_ReadHandsOverTheFrame :
    (st 0 .short 0 true frameC).fault = false ∧ (3#32).toNat < 4 ∧ 4 ≤ (4#32).toNat ∧
    (st 0 .short 0 true frameC).ready = true ∧ (st 0 .short 0 false frameC).ready = false := by decide

theorem witness_SecondReadFindsNothing :
    ∃ t, (st 0 .short 0 true frameC).fault = false ∧ 4 ≤ (4#32).toNat ∧
      exec (.read 4#32) (st 0 .short 0 true frameC) = .next t := ⟨_, rfl, by decide, rfl⟩

theorem witness_ResetStateClearsFourElements : (st 5120#32 .long 4 true frameC).fault = false ∧
    ∃ t, exec .resetState (st 5120#32 .long 4 true frameC) = .next t := ⟨rfl, _, rfl⟩

/-- Both orders of the race. -/
theorem witness_ResetStateRacingAnEdge :
    ∃ edge, isEdge edge = true ∧ Interleaves [edge] [.resetState] [edge, .resetState] ∧
      Interleaves [edge] [.resetState] [.resetState, edge] ∧ (st 0 .short 0 false 0).fault = false :=
  ⟨.edgeF 4096#32, rfl, .left (.right .nil), .right (.left .nil), rfl⟩

theorem witness_EncSizeIsSixteen : (st 0 .short 0 true frameC).fault = false := by decide

theorem witness_DecSizeIsFive : (st 5120#32 .long 4 false frameC).fault = false := by decide

/-- A codec operation without and with a fatal cause. -/
theorem witness_CodecWritesNoBlockState :
    isCodec (.encode 5#32 16#32 0) = true ∧ fatalCauseOf (.encode 5#32 16#32 0) = .none ∧
    isCodec (.decode 15#32 5#32 0) = true ∧ fatalCauseOf (.decode 15#32 5#32 0) ≠ .none ∧
    (st 0 .short 0 false 0).fault = false := by decide

/-- Two states that differ in every element of R10 but the latch. -/
theorem witness_CodecResultsDependOnOperandsOnly :
    isCodec (.canDecode 16#32 frameC) = true ∧
    (st 0 .short 0 false 0).config = (st 9#32 .long 3 true frameC).config ∧
    (st 0 .short 0 false 0).fault = false ∧ (st 9#32 .long 3 true frameC).fault = false ∧
    (∃ t, exec (.canDecode 16#32 frameC) (st 0 .short 0 false 0) = .next t) ∧
    ∃ t, exec (.canDecode 16#32 frameC) (st 9#32 .long 3 true frameC) = .next t :=
  ⟨rfl, rfl, rfl, rfl, ⟨_, rfl⟩, ⟨_, rfl⟩⟩

theorem witness_ManchesterPairsAreBitAndComplement : 0 < 7 ∧ 6 < 7 := by decide

/-- The least sizes that are enough. -/
theorem witness_EncodeDrivesTheFrame :
    (st 0 .short 0 false 0).fault = false ∧ 5 ≤ (5#32).toNat ∧ 16 ≤ (16#32).toNat := by decide

theorem witness_DecodeCollectsTheValidPairs :
    (st 0 .short 0 false 0).fault = false ∧ 16 ≤ (16#32).toNat ∧ 5 ≤ (5#32).toNat := by decide

/-- Section 5.3: the frame of `DE AD BE EF` with its last pair set to 11. -/
theorem witness_OneInvalidPairDeletesOneBit_last :
    (∀ k : Fin 37, (streamBit 0x00075556555665A6A999A69AA9A9AA57#128 ⟨54 + 2 * k.val, by omega⟩ =
      streamBit 0x00075556555665A6A999A69AA9A9AA57#128 ⟨55 + 2 * k.val, by omega⟩) ↔ k = 36) ∧
    ∀ k : Fin 36, k.val ≠ 36 → streamBit 0x00075556555665A6A999A69AA9A9AA57#128 ⟨54 + 2 * k.val, by omega⟩ =
      (0x6F56DF778#36).getLsbD (35 - k.val) := by decide

/-- Section 5.3: its first pair set to 11. -/
theorem witness_OneInvalidPairDeletesOneBit_first :
    (∀ k : Fin 37, (streamBit 0x00075556555667A6A999A69AA9A9AA56#128 ⟨54 + 2 * k.val, by omega⟩ =
      streamBit 0x00075556555667A6A999A69AA9A9AA56#128 ⟨55 + 2 * k.val, by omega⟩) ↔ k = 0) ∧
    ∀ k : Fin 36, k.val ≠ 0 → streamBit 0x00075556555667A6A999A69AA9A9AA56#128 ⟨54 + 2 * k.val, by omega⟩ =
      (0x6F56DF778#36).getLsbD (35 - k.val) := by decide

/-- Both answers, at the least sufficient length and one below. -/
theorem witness_CanDecodeTestsPreambleAndOem : (st 0 .short 0 false 0).fault = false ∧
    canDecodeAnswer paramsT 16#32 frameC = true ∧ canDecodeAnswer paramsT 15#32 frameC = false := by decide

/-- Operands that differ only where the operation does not read. -/
theorem witness_CodecReadsWithinBounds :
    (∀ j : Fin 5, j.val < 4 → payloadByte 0x123456789A#40 j = payloadByte 0x1234567800#40 j) ∧
    (∀ i : Fin 128, 54 ≤ i.val → streamBit frameC i = streamBit (frameC ||| 1#128 <<< 127) i) ∧
    ∀ i : Fin 128, 10 ≤ i.val → i.val < 32 → streamBit frameC i = streamBit 0x00075556000000000000000000000000#128 i := by
  decide

/-- Program C, step 4: an encoded frame with ten ones in its slack. -/
theorem witness_DecodeRecoversTheEncodedValue :
    encodeFrame paramsT 0x123456789A#40 = frameC ∧
    ∀ i : Fin 128, 10 ≤ i.val → streamBit 0xFFC7555655566556595A6566696A9556#128 i = streamBit frameC i := by decide

/-- Each cause at the ends of its range, and an operation that has none. -/
theorem witness_FatalCausesAreComplete :
    fatalCauseOf (.read 3#32) = .readSize ∧ fatalCauseOf (.read 4#32) = .none ∧
    fatalCauseOf (.encode 4#32 16#32 0) = .encodeSize ∧ fatalCauseOf (.encode 5#32 15#32 0) = .encodeSize ∧
    fatalCauseOf (.encode 5#32 16#32 0) = .none ∧ fatalCauseOf (.decode 15#32 5#32 0) = .decodeSize ∧
    fatalCauseOf (.decode 16#32 4#32 0) = .decodeSize ∧ fatalCauseOf (.decode 16#32 5#32 0) = .none ∧
    (st 0 .short 0 false 0).fault = false := by decide

theorem witness_FaultedBlockDoesNothing :
    let s : State := (faulted (st 7#32 .long 2 false 1)).issue ⟨0x50000000000000000#68, 0, 0⟩
    s.fault = true ∧ 1 ≤ s.issued.length := by decide

/-- An operation that changes an element of each kind. -/
theorem witness_ElementsHaveTheListedWriters :
    (∃ t, exec (.edgeF 2560#32) (st 2560#32 .short 5 false frameShort) = .next t ∧
      t.pulseClocks ≠ 2560#32 ∧ t.pulseCount ≠ 5 ∧ t.frame ≠ frameShort ∧ t.ready = true) ∧
    (∃ t, exec (.read 4#32) (st 0 .short 0 true frameC) = .next t ∧ t.ready = false) ∧
    ∃ t, exec (.read 3#32) (st 0 .short 0 true frameC) = .next t ∧ t.fault ≠ false :=
  ⟨⟨_, rfl, by decide⟩, ⟨_, rfl, by decide⟩, ⟨_, rfl, by decide⟩⟩

theorem witness_ResultsAreDrivenAsListed :
    (st 0 .short 0 true frameC).fault = false ∧ fatalCauseOf (.read 4#32) = .none ∧
    ∃ t, exec (.read 4#32) (st 0 .short 0 true frameC) = .next t := ⟨rfl, by decide, _, rfl⟩

/-- The invariant with `ready = 1`, a step from there, and one that ends in a fatal failure. -/
theorem witness_StepKeepsTheInvariant :
    Inv ((st 5120#32 .long 4 true frameC).issue (encodeCommand (.read 4#32))) ∧
    (∃ t, step ((st 5120#32 .long 4 true frameC).issue (encodeCommand (.read 4#32))) = .next t) ∧
    Inv ((st 5120#32 .long 4 true frameC).issue (encodeCommand (.read 3#32))) ∧
    ∃ t, step ((st 5120#32 .long 4 true frameC).issue (encodeCommand (.read 3#32))) = .fault (.fatal t) :=
  ⟨⟨fun _ => by decide, by decide, fun _ => by decide, by decide⟩, ⟨_, rfl⟩,
    ⟨fun _ => by decide, by decide, fun _ => by decide, by decide⟩, ⟨_, rfl⟩⟩

/-- For each clause: a run of one step that goes on; one that comes to READ 3 after ENC_SIZE; a step that is a fault. -/
theorem witness_RunEndsAtFatal :
    let s : State :=
      (st 0 .short 0 true 0).withIssued [encodeCommand .encSize, encodeCommand (.read 3#32), encodeCommand .decSize]
    (∃ t, core.run 1 s = .next t ∧ s.fault = false ∧
      t.issued = encodeCommand (.read 3#32) :: [encodeCommand .decSize] ∧
      decodeCommand (encodeCommand (.read 3#32)) = .ok (.read 3#32) ∧ fatalCauseOf (.read 3#32) ≠ .none) ∧
    ∃ f, (st 0 .short 0 true 0).fault = false ∧
      step ((st 0 .short 0 true 0).issue (encodeCommand (.read 3#32))) = .fault f :=
  ⟨⟨_, rfl, rfl, rfl, by decide, by decide⟩, ⟨_, rfl, rfl⟩⟩

end Sys2Proof.Tests
end

section
/-! SUPPORT. The parameter `CLOCKS_PER_US` and the thresholds as multiples of it (R3). -/

namespace Sys2Proof.Machine

theorem clocksPerUs_pos (p : Params) : 0 < clocksPerUs p := Nat.succ_pos _

/-- The parameter keeps the largest threshold inside a 32-bit word (R3). -/
theorem hundred_mul_clocksPerUs_lt (p : Params) : 100 * clocksPerUs p < 2 ^ 32 := by
  have hle : clocksPerUs p ≤ 42949672 := p.ticksMinusOne.isLt
  omega

@[simp] theorem minClocks_eq (p : Params) : minClocks p = 44 * clocksPerUs p := rfl
@[simp] theorem midClocks_eq (p : Params) : midClocks p = 72 * clocksPerUs p := rfl
@[simp] theorem maxClocks_eq (p : Params) : maxClocks p = 100 * clocksPerUs p := rfl

/-- Every value R3 allows is that of some parameters; the other three parameters play no part and are zero here. -/
theorem exists_clocksPerUs_eq {n : Nat} (hpos : 0 < n) (hlt : 100 * n < 2 ^ 32) :
    ∃ p : Params, clocksPerUs p = n := by
  have hfits : n - 1 < 42949672 := by omega
  exact ⟨⟨⟨n - 1, hfits⟩, 0, 0, 0⟩, Nat.sub_add_cancel hpos⟩

/-- Settles O1: the bounds and the multiples hold for every parameter value, and each allowed value is reached by
holding its predecessor in `ticksMinusOne`. -/
theorem thresholdsFollowClocksPerUs : Obligations.ThresholdsFollowClocksPerUs :=
  ⟨fun p => ⟨clocksPerUs_pos p, hundred_mul_clocksPerUs_lt p, minClocks_eq p, midClocks_eq p, maxClocks_eq p⟩,
    fun _ => exists_clocksPerUs_eq⟩

end Sys2Proof.Machine
end

section
/-! SUPPORT. What a pulse does to each element, and what any operation can do to the state: the cases, each once. -/

namespace Sys2Proof.Machine

open Sys2Proof.Safety

/-! ### The fields of `commitIfAny` and `acceptPulse` -/

@[simp] theorem commitIfAny_config (b : Option Bool) (s : State) : (commitIfAny b s).config = s.config := by
  cases b <;> rfl
@[simp] theorem commitIfAny_pulseClocks (b : Option Bool) (s : State) :
    (commitIfAny b s).pulseClocks = s.pulseClocks := by cases b <;> rfl
@[simp] theorem commitIfAny_lastPulseLength (b : Option Bool) (s : State) :
    (commitIfAny b s).lastPulseLength = s.lastPulseLength := by cases b <;> rfl
@[simp] theorem commitIfAny_pulseCount (b : Option Bool) (s : State) :
    (commitIfAny b s).pulseCount = s.pulseCount := by cases b <;> rfl
@[simp] theorem commitIfAny_fault (b : Option Bool) (s : State) : (commitIfAny b s).fault = s.fault := by
  cases b <;> rfl
@[simp] theorem commitIfAny_faultCause (b : Option Bool) (s : State) :
    (commitIfAny b s).faultCause = s.faultCause := by cases b <;> rfl

@[simp] theorem acceptPulse_config (c : PulseClass) (s : State) : (acceptPulse c s).config = s.config := by
  simp [acceptPulse]
@[simp] theorem acceptPulse_pulseClocks (c : PulseClass) (s : State) :
    (acceptPulse c s).pulseClocks = s.pulseClocks := by simp [acceptPulse]
@[simp] theorem acceptPulse_lastPulseLength (c : PulseClass) (s : State) :
    (acceptPulse c s).lastPulseLength = c := by simp [acceptPulse]
@[simp] theorem acceptPulse_pulseCount (c : PulseClass) (s : State) :
    (acceptPulse c s).pulseCount = (runUpdate s.lastPulseLength s.pulseCount c).count := by simp [acceptPulse]
@[simp] theorem acceptPulse_fault (c : PulseClass) (s : State) : (acceptPulse c s).fault = s.fault := by
  simp [acceptPulse]
@[simp] theorem acceptPulse_faultCause (c : PulseClass) (s : State) :
    (acceptPulse c s).faultCause = s.faultCause := by simp [acceptPulse]

/-- Without a bit the frame buffer and `ready` stay; a bit is shifted in and the detector looks at the new frame
(R78, R79). -/
theorem commitIfAny_frame_ready (b : Option Bool) (s : State) :
    ((commitIfAny b s).frame = s.frame ∧ (commitIfAny b s).ready = s.ready) ∨
    ∃ x, (commitIfAny b s).frame = shiftIn s.frame x ∧
      (commitIfAny b s).ready = (s.ready || canDecode s.config (shiftIn s.frame x)) := by
  cases b with
  | none => exact .inl ⟨rfl, rfl⟩
  | some x => exact .inr ⟨x, rfl, rfl⟩

/-- A pulse leaves the frame buffer and `ready` alone, or shifts one bit in and looks at the new frame (R76 to R79). -/
theorem acceptPulse_frame_ready (c : PulseClass) (s : State) :
    ((acceptPulse c s).frame = s.frame ∧ (acceptPulse c s).ready = s.ready) ∨
    ∃ x, (acceptPulse c s).frame = shiftIn s.frame x ∧
      (acceptPulse c s).ready = (s.ready || canDecode s.config (shiftIn s.frame x)) :=
  commitIfAny_frame_ready _ _

/-! ### The cases of an operation -/

/-- What an operation can do to a state, with the operations that can do it (R10): the six ways in which the elements
can come out. -/
inductive Effect : Instr → State → State → Prop where
  /-- No element is written, by whatever operation. -/
  | portsOnly {i s} (o : Results) : Effect i s (s.withOut o)
  /-- A rising edge, or a falling edge whose sum is noise (R70, R74). -/
  | clocksStored {i s} (t : Word) (edge : isEdge i = true) : Effect i s ((quiet s).withPulseClocks t)
  /-- A falling edge that ends a pulse, accepted by a live block with no frame waiting (R71). -/
  | pulseAccepted {s} (d : Word) (c : PulseClass) (live : s.fault = false) (unread : s.ready = false) :
      Effect (.edgeF d) s (acceptPulse c ((quiet s).withPulseClocks (pulseSum s d)))
  /-- READ hands a frame over (R90). -/
  | frameTaken {s} (n : Word) (o : Results) : Effect (.read n) s ((s.withReady false).withOut o)
  /-- RESET_STATE (R91). -/
  | runCleared {s} : Effect .resetState s (clearRun (quiet s))
  /-- The operation raises Fatal (R133). -/
  | latched {i s} (fatal : fatalCauseOf i ≠ .none) : Effect i s (raiseFatal (fatalCauseOf i) s)

/-- R131 gives READ no cause exactly where its size suffices. -/
theorem fatalCauseOf_read_eq_none (n : Word) : fatalCauseOf (.read n) = .none ↔ 4 ≤ n.toNat := by
  simp [fatalCauseOf]

/-- R131 gives ENCODE no cause exactly where both its sizes suffice. -/
theorem fatalCauseOf_encode_eq_none (n m : Word) (P : Payload) :
    fatalCauseOf (.encode n m P) = .none ↔ 5 ≤ n.toNat ∧ 16 ≤ m.toNat := by
  simp [fatalCauseOf]

/-- R131 gives DECODE no cause exactly where both its sizes suffice. -/
theorem fatalCauseOf_decode_eq_none (n m : Word) (S : Frame) :
    fatalCauseOf (.decode n m S) = .none ↔ 16 ≤ n.toNat ∧ 5 ≤ m.toNat := by
  simp [fatalCauseOf]

theorem effect_edgeR (d : Word) (s : State) : Effect (.edgeR d) s (operation (.edgeR d) (quiet s)) := by
  cases hr : s.ready with
  | true => rw [operation, gate_ready _ (s := quiet s) hr]; exact .portsOnly {}
  | false => rw [operation, gate_open _ (s := quiet s) hr]; exact .clocksStored d rfl

theorem effect_edgeF (d : Word) {s : State} (live : s.fault = false) :
    Effect (.edgeF d) s (operation (.edgeF d) (quiet s)) := by
  cases hr : s.ready with
  | true => rw [operation, gate_ready _ (s := quiet s) hr]; exact .portsOnly {}
  | false =>
    rw [operation, gate_open _ (s := quiet s) hr]
    cases hc : classify s.config (s.pulseClocks + d) with
    | noise => rw [fallingEdge_noise (s := quiet s) hc]; exact .clocksStored (s.pulseClocks + d) rfl
    | pulse c => rw [fallingEdge_pulse (s := quiet s) hc]; exact .pulseAccepted d c live hr

theorem effect_read {n : Word} (size : 4 ≤ n.toNat) (s : State) :
    Effect (.read n) s (operation (.read n) (quiet s)) := by
  rw [operation_read size]
  cases hr : s.ready with
  | true => rw [readFrame_ready (s := quiet s) hr]; exact .frameTaken n _
  | false => rw [readFrame_empty (s := quiet s) hr]; exact .portsOnly _

/-- An operation on a live block has one of the six effects. -/
theorem operation_effect (i : Instr) {s : State} (live : s.fault = false) : Effect i s (operation i (quiet s)) := by
  by_cases hc : fatalCauseOf i = .none
  · cases i with
    | edgeR d => exact effect_edgeR d s
    | edgeF d => exact effect_edgeF d live
    | read n => exact effect_read ((fatalCauseOf_read_eq_none n).1 hc) s
    | resetState => exact .runCleared
    | encode n m P =>
      obtain ⟨hn, hm⟩ := (fatalCauseOf_encode_eq_none n m P).1 hc
      rw [operation_encode hn hm]
      exact .portsOnly _
    | decode n m S =>
      obtain ⟨hn, hm⟩ := (fatalCauseOf_decode_eq_none n m S).1 hc
      rw [operation_decode hn hm]
      exact .portsOnly _
    | canDecode n S => exact .portsOnly _
    | encSize => exact .portsOnly _
    | decSize => exact .portsOnly _
  · rw [operation_fatal hc]
    exact .latched hc

/-- Whatever next state `exec` answers, it is one of the six effects; a faulted block drives no port (R134). -/
theorem exec_effect {i : Instr} {s t : State} (h : exec i s = .next t) : Effect i s t := by
  obtain ⟨-, rfl⟩ | ⟨live, rfl⟩ := exec_next h
  · exact .portsOnly {}
  · exact operation_effect i live

end Sys2Proof.Machine
end

section
/-! SUPPORT. The elements of R10: who writes them, how the frame buffer moves, and the invariant. -/

namespace Sys2Proof.Machine

open Sys2Proof.Safety

/-! ### The invariant under each update -/

/-- The invariant says nothing about the result ports. -/
theorem inv_withOut {s : State} (h : Inv s) (o : Results) : Inv (s.withOut o) :=
  ⟨h.ready_detects, h.count_le_five, h.long_count_le_four, h.cause_iff_fault⟩

/-- The invariant says nothing about the commands still to come. -/
theorem inv_withIssued {s : State} (h : Inv s) (cs : List Command) : Inv (s.withIssued cs) :=
  ⟨h.ready_detects, h.count_le_five, h.long_count_le_four, h.cause_iff_fault⟩

/-- The invariant says nothing about the pending half-pulse. -/
theorem inv_withPulseClocks {s : State} (h : Inv s) (t : Word) : Inv (s.withPulseClocks t) :=
  ⟨h.ready_detects, h.count_le_five, h.long_count_le_four, h.cause_iff_fault⟩

/-- With `ready = 0` the frame may be anything (R19). -/
theorem inv_unready {s : State} (h : Inv s) : Inv (s.withReady false) :=
  ⟨by simp, h.count_le_five, h.long_count_le_four, h.cause_iff_fault⟩

theorem inv_clearRun {s : State} (h : Inv s) : Inv (clearRun s) :=
  ⟨by simp [clearRun], by simp [clearRun], by simp [clearRun], h.cause_iff_fault⟩

/-- Raising Fatal sets the latch together with a cause (R131). -/
theorem inv_raiseFatal {s : State} {cause : FatalCause} (h : Inv s) (hc : cause ≠ .none) :
    Inv (raiseFatal cause s) :=
  ⟨h.ready_detects, h.count_le_five, h.long_count_le_four, by simp [raiseFatal, hc]⟩

/-- A pulse that starts with `ready = 0` can raise it only over a frame just looked at (R79); the bounds of the count
are those of the run update (R76, R77). -/
theorem inv_acceptPulse {s : State} (c : PulseClass) (h : Inv s) (unread : s.ready = false) :
    Inv (acceptPulse c s) := by
  obtain ⟨le_five, le_four⟩ := runUpdate_bounds (c := c) h.count_le_five h.long_count_le_four
  refine ⟨?_, by simpa using le_five, by simpa using le_four, by simpa using h.cause_iff_fault⟩
  obtain ⟨-, hready⟩ | ⟨b, hframe, hready⟩ := acceptPulse_frame_ready c s
  · simp [hready, unread]
  · simp [hready, hframe, unread]

/-- The state of creation satisfies the invariant, whatever frame it is created with. -/
theorem inv_created (p : Params) : Inv (State.created p) := ⟨by simp, by simp, by simp, by simp⟩

/-- Every effect of an operation keeps the invariant. -/
theorem Effect.inv {i : Instr} {s t : State} (e : Effect i s t) (h : Inv s) : Inv t := by
  cases e with
  | portsOnly o => exact inv_withOut h o
  | clocksStored t _ => exact inv_withPulseClocks (inv_withOut h {}) t
  | pulseAccepted d c _ unread =>
    exact inv_acceptPulse c (inv_withPulseClocks (inv_withOut h {}) (pulseSum s d)) unread
  | frameTaken n o => exact inv_withOut (inv_unready h) o
  | runCleared => exact inv_clearRun (inv_withOut h {})
  | latched fatal => exact inv_raiseFatal h fatal

/-- The outcome of a next state carries that state, as the next one or as the latched one (R133). -/
theorem eq_of_outcomeOf_next {s t : State}
    (h : outcomeOf (.next s) = .next t ∨ outcomeOf (.next s) = .fault (.fatal t)) : t = s := by
  cases hf : s.fault
  · simpa [outcomeOf_live hf, eq_comm] using h
  · simpa [outcomeOf_faulted hf, eq_comm] using h

/-- The state that a step answers, next or latched, is what the next command's operation left, or that of a faulted
block. -/
theorem step_answers {s t : State} (h : step s = .next t ∨ step s = .fault (.fatal t)) :
    ∃ rest, t = quiet (s.withIssued rest) ∨ ∃ i, exec i (s.withIssued rest) = .next t := by
  obtain ⟨r, e⟩ | ⟨c, rest, -, -, e⟩ | ⟨c, rest, i, -, -, -, e⟩ := step_cases s
  · simp [e] at h
  · exact ⟨rest, .inl (by simpa [e, eq_comm, quiet_eq, State.withIssued] using h)⟩
  · rw [e, exec_eq] at h
    exact ⟨rest, .inr ⟨i, (exec_eq i _).trans (congrArg _ (eq_of_outcomeOf_next h).symm)⟩⟩

/-- Settles O50: the state a step answers is that of the faulted block with a command taken, or an effect of the
command's operation, and each of the six effects keeps the invariant. -/
theorem stepKeepsTheInvariant : Obligations.StepKeepsTheInvariant := by
  intro s t hs h
  obtain ⟨rest, rfl | ⟨i, hexec⟩⟩ := step_answers h
  · exact inv_withOut (inv_withIssued hs rest) {}
  · exact (exec_effect hexec).inv (inv_withIssued hs rest)

/-- Settles O49: hard reset leaves `ready = 0`, a count of 0 and no fault. -/
theorem invariantAtHardReset : Obligations.InvariantAtHardReset := ⟨inv_created, inv_created Config.params⟩

/-- Settles O20: among the effects only an accepted pulse touches the frame buffer, and it shifts in at most one bit. -/
theorem frameMovesByAtMostOneBit : Obligations.FrameMovesByAtMostOneBit := by
  intro i s t h
  cases exec_effect h with
  | portsOnly o => exact .inl rfl
  | clocksStored t _ => exact .inl rfl
  | pulseAccepted d c live unread =>
    obtain ⟨hframe, -⟩ | ⟨b, hframe, -⟩ := acceptPulse_frame_ready c ((quiet s).withPulseClocks (pulseSum s d))
    · exact .inl hframe
    · exact .inr ⟨d, b, rfl, unread, live, by rw [hframe, shiftIn_toNat]; rfl⟩
  | frameTaken n o => exact .inl rfl
  | runCleared => exact .inl rfl
  | latched _ => exact .inl rfl

/-- Settles O47: the writers of an element are the operations of the effects that write it. -/
theorem elementsHaveTheListedWriters : Obligations.ElementsHaveTheListedWriters := by
  intro i s t h
  cases exec_effect h with
  | portsOnly o => simp +contextual
  | clocksStored t edge => simp +contextual [edge]
  | pulseAccepted d c _ unread => simp [isEdge, unread]
  | frameTaken n o => simp
  | runCleared => simp [clearRun]
  | latched fatal => simp +contextual [raiseFatal, fatal]

end Sys2Proof.Machine
end

section
/-! SUPPORT. What no operation touches (the configuration, the list of issued commands), and runs of issued operations:
RESET_STATE racing an edge (R42). -/

namespace Sys2Proof.Machine

open Sys2Proof.Safety

/-! ### The configuration and the issued commands -/

@[simp] theorem commitIfAny_issued (b : Option Bool) (s : State) : (commitIfAny b s).issued = s.issued := by
  cases b <;> rfl
@[simp] theorem acceptPulse_issued (c : PulseClass) (s : State) : (acceptPulse c s).issued = s.issued := by
  simp [acceptPulse]

/-- No effect of an operation reaches the configuration or what has been issued (R22, R24). -/
theorem Effect.keeps_config_issued {i : Instr} {s t : State} (e : Effect i s t) :
    t.config = s.config ∧ t.issued = s.issued := by
  cases e with
  | portsOnly o => exact ⟨rfl, rfl⟩
  | clocksStored t _ => exact ⟨rfl, rfl⟩
  | pulseAccepted d c _ _ => exact ⟨by simp, by simp⟩
  | frameTaken n o => exact ⟨rfl, rfl⟩
  | runCleared => exact ⟨rfl, rfl⟩
  | latched _ => exact ⟨rfl, rfl⟩

/-- Settles O10: `exec` answers a next state, and none of the six effects reaches the configuration or the list. -/
theorem everyOperationAnswers : Obligations.EveryOperationAnswers := fun i s =>
  ⟨operate (operation i) s, exec_eq i s, (exec_effect (exec_eq i s)).keeps_config_issued⟩

/-- Settles O8: the fault latch and the decoder let the command through to its operation. -/
theorem stepPerformsTheNextOperation : Obligations.StepPerformsTheNextOperation :=
  fun _ _ _ _ issued live decodes => step_ok issued live decodes

/-! ### No operation looks at the issued commands -/

theorem quiet_withIssued (cs : List Command) (s : State) : quiet (s.withIssued cs) = (quiet s).withIssued cs := rfl

theorem gate_withIssued {op : State → State} {cs : List Command} {s : State}
    (h : op (s.withIssued cs) = (op s).withIssued cs) :
    gate op (s.withIssued cs) = (gate op s).withIssued cs := by
  cases hr : s.ready with
  | true => rw [gate_ready op hr, gate_ready op (s := s.withIssued cs) hr]
  | false => rw [gate_open op hr, gate_open op (s := s.withIssued cs) hr, h]

theorem checkSize_withIssued {op : State → State} {cs : List Command} {s : State} (tooSmall : Bool)
    (cause : FatalCause) (h : op (s.withIssued cs) = (op s).withIssued cs) :
    checkSize tooSmall cause op (s.withIssued cs) = (checkSize tooSmall cause op s).withIssued cs := by
  cases tooSmall with
  | true => rfl
  | false => exact h

theorem commitIfAny_withIssued (b : Option Bool) (cs : List Command) (s : State) :
    commitIfAny b (s.withIssued cs) = (commitIfAny b s).withIssued cs := by cases b <;> rfl

theorem acceptPulse_withIssued (c : PulseClass) (cs : List Command) (s : State) :
    acceptPulse c (s.withIssued cs) = (acceptPulse c s).withIssued cs :=
  commitIfAny_withIssued _ cs (s.withRun _ _)

theorem fallingEdge_withIssued (d : Word) (cs : List Command) (s : State) :
    fallingEdge d (s.withIssued cs) = (fallingEdge d s).withIssued cs := by
  cases hc : classify s.config (s.pulseClocks + d) with
  | noise => rw [fallingEdge_noise hc, fallingEdge_noise (s := s.withIssued cs) hc]; rfl
  | pulse c =>
    rw [fallingEdge_pulse hc, fallingEdge_pulse (s := s.withIssued cs) hc]
    exact acceptPulse_withIssued c cs { s with pulseClocks := s.pulseClocks + d }

theorem readFrame_withIssued (cs : List Command) (s : State) :
    readFrame (s.withIssued cs) = (readFrame s).withIssued cs := by
  cases hr : s.ready with
  | true => rw [readFrame_ready hr, readFrame_ready (s := s.withIssued cs) hr]; rfl
  | false => rw [readFrame_empty hr, readFrame_empty (s := s.withIssued cs) hr]; rfl

/-- What an operation does is the same whatever is issued behind it (R22). -/
theorem operation_withIssued (i : Instr) (cs : List Command) (s : State) :
    operation i (s.withIssued cs) = (operation i s).withIssued cs := by
  cases i with
  | edgeR d => exact gate_withIssued rfl
  | edgeF d => exact gate_withIssued (fallingEdge_withIssued d cs s)
  | read n => exact checkSize_withIssued _ _ (readFrame_withIssued cs s)
  | resetState => rfl
  | encode n m P => simp only [operation]; exact checkSize_withIssued _ _ rfl
  | decode n m S => simp only [operation]; exact checkSize_withIssued _ _ rfl
  | canDecode n S => rfl
  | encSize => rfl
  | decSize => rfl

/-! ### Runs of issued operations -/

/-- The encoder's command decodes to the operation it was made for (R51). -/
@[simp] theorem decodeCommand_encodeCommand (i : Instr) : decodeCommand (encodeCommand i) = .ok i := by
  cases i <;> simp [decodeCommand, encodeCommand, decodeOp, ifZeroB, ifZeroAB]

theorem run_withIssued_self {s : State} {cs : List Command} (issued : s.issued = cs) (k : Nat) :
    core.run k s = core.run k (s.withIssued cs) := by
  subst issued; rfl

/-- An operation without a fatal cause at the head of the list is performed, and the run goes on from what it left. -/
theorem run_issued {i : Instr} {s : State} (live : s.fault = false) (safe : fatalCauseOf i = .none)
    (rest : List Command) (k : Nat) :
    core.run (k + 1) (s.withIssued (encodeCommand i :: rest)) =
      core.run k ((operation i (quiet s)).withIssued rest) := by
  have hstep : core.step (s.withIssued (encodeCommand i :: rest)) =
      .next ((operation i (quiet s)).withIssued rest) :=
    calc step (s.withIssued (encodeCommand i :: rest))
      _ = exec i (s.withIssued rest) := step_live rfl live (decodeCommand_encodeCommand i) safe
      _ = .next (operation i (quiet (s.withIssued rest))) := exec_live i live
      _ = .next ((operation i (quiet s)).withIssued rest) := by rw [quiet_withIssued, operation_withIssued]
  simp only [Host.Core.run]
  rw [hstep]

/-- An edge raises no Fatal (R131). -/
theorem fatalCauseOf_edge : ∀ {i : Instr}, isEdge i = true → fatalCauseOf i = .none
  | .edgeR _, _ => rfl
  | .edgeF _, _ => rfl

/-- Two single operations can come in two orders. -/
theorem interleaves_singletons {α : Type} {x y : α} {zs : List α} (h : Interleaves [x] [y] zs) :
    zs = [x, y] ∨ zs = [y, x] := by
  cases h with
  | left h => cases h with | right h => cases h; exact .inl rfl
  | right h => cases h with | left h => cases h; exact .inr rfl

/-- The edge first: RESET_STATE clears the run, and the frame is what the edge left. -/
theorem run_edge_reset {s : State} {edge : Instr} (live : s.fault = false) (hedge : isEdge edge = true) :
    core.run 2 (s.withIssued [encodeCommand edge, encodeCommand .resetState]) =
      .next ((clearRun (quiet (operation edge (quiet s)))).withIssued []) := by
  have safe := fatalCauseOf_edge hedge
  have live' : (operation edge (quiet s)).fault = false := (operation_keeps_latch safe _).1.trans live
  exact (run_issued live safe _ 1).trans (run_issued live' rfl [] 0)

/-- RESET_STATE first: the edge runs from the reset values. -/
theorem run_reset_edge {s : State} {edge : Instr} (live : s.fault = false) (hedge : isEdge edge = true) :
    core.run 2 (s.withIssued [encodeCommand .resetState, encodeCommand edge]) =
      exec edge ((clearRun (quiet s)).withIssued []) := by
  have live' : (clearRun (quiet s)).fault = false := live
  rw [exec_live edge (s := (clearRun (quiet s)).withIssued []) live', quiet_withIssued, operation_withIssued]
  exact (run_issued live rfl _ 1).trans (run_issued live' (fatalCauseOf_edge hedge) [] 0)

/-- Settles O29: the two orders, each by running its two operations. -/
theorem resetStateRacingAnEdge : Obligations.ResetStateRacingAnEdge := by
  intro s edge order live hedge interleaved issued
  obtain rfl | rfl := interleaves_singletons interleaved
  · refine .inl ⟨rfl, (operation edge (quiet s)).withIssued [], _, ?_,
      (run_withIssued_self issued 2).trans (run_edge_reset live hedge), ?_⟩
    · rw [← operation_withIssued]
      exact exec_live edge live
    · obtain ⟨hfault, hcause⟩ := operation_keeps_latch (fatalCauseOf_edge hedge) (quiet s)
      simp [elements, clearRun, hfault, hcause, live]
  · exact .inr ⟨rfl, (run_withIssued_self issued 2).trans (run_reset_edge live hedge)⟩

end Sys2Proof.Machine
end

section
/-! SUPPORT. The views of a frame by stream position (R31), and what the codec operations read (R34, R35, R41). -/

namespace Sys2Proof.Machine

open Sys2Proof.Safety

/-! ### The views of a frame -/

/-- Stream position `i` is in word `i / 32` (R31). -/
theorem streamBit_eq_frameWord (S : Frame) (i : Fin 128) :
    streamBit S i = (frameWord S ⟨i.val / 32, by omega⟩).getLsbD (31 - i.val % 32) := by
  have hplace : 127 - i.val = 96 - 32 * (i.val / 32) + (31 - i.val % 32) := by omega
  have hin : 31 - i.val % 32 < 32 := by omega
  simp [streamBit, frameWord, hin, hplace]

/-- Stream position `i` is in byte `i / 8` (R31). -/
theorem streamBit_eq_frameByte (S : Frame) (i : Fin 128) :
    streamBit S i = (frameByte S ⟨i.val / 8, by omega⟩).getLsbD (7 - i.val % 8) := by
  have hplace : 127 - i.val = 120 - 8 * (i.val / 8) + (7 - i.val % 8) := by omega
  have hin : 7 - i.val % 8 < 8 := by omega
  simp [streamBit, frameByte, hin, hplace]

/-- The four words of a frame, put together, are the frame (R31). -/
theorem frameOfWords_frameWord (S : Frame) :
    frameOfWords (frameWord S 0) (frameWord S 1) (frameWord S 2) (frameWord S 3) = S := by
  calc S.extractLsb' 96 32 ++ S.extractLsb' 64 32 ++ S.extractLsb' 32 32 ++ S.extractLsb' 0 32
      = S.extractLsb' 0 128 := by
        rw [BitVec.extractLsb'_append_extractLsb'_eq_extractLsb' (start₁ := 64) (len₁ := 32) rfl,
          BitVec.extractLsb'_append_extractLsb'_eq_extractLsb' (start₁ := 32) (len₁ := 32) rfl,
          BitVec.extractLsb'_append_extractLsb'_eq_extractLsb' (start₁ := 0) (len₁ := 32) rfl]
    _ = S := BitVec.extractLsb'_eq_self

/-- Settles O36: the position's place in the integer is the definition of `streamBit`; in its word and in its byte it is
the same bit. -/
theorem frameViewsAgree : Obligations.FrameViewsAgree := fun S i =>
  ⟨rfl, streamBit_eq_frameWord S i, streamBit_eq_frameByte S i, frameOfWords_frameWord S⟩

/-! ### What the codec functions read -/

/-- A slice of a frame is read off the stream positions it covers: two frames that agree there have the same slice. -/
theorem extractLsb'_eq_of_streamBit_eq {S T : Frame} {start len : Nat} (fits : start + len ≤ 128)
    (h : ∀ i : Fin 128, 128 - (start + len) ≤ i.val → i.val < 128 - start → streamBit S i = streamBit T i) :
    S.extractLsb' start len = T.extractLsb' start len := by
  ext j hj
  have hbit := h ⟨127 - (start + j), by omega⟩ (by simp only; omega) (by simp only; omega)
  have hplace : 127 - (127 - (start + j)) = start + j := by omega
  simpa [streamBit, hplace] using hbit

theorem mem_countDown {k n : Nat} : k ∈ countDown n ↔ k ≤ n := by
  induction n with
  | zero => simp [countDown]
  | succ n ih => simp only [countDown, List.mem_cons, ih]; omega

/-- `p4` is not in the 32-bit value (R112). -/
theorem value32_congr {P Q : Payload} (h : ∀ j : Fin 5, j.val < 4 → payloadByte P j = payloadByte Q j) :
    value32 P = value32 Q := by
  simp [value32, h]

/-- ENCODE reads a payload through its 32-bit value only (R112, R114). -/
theorem encodeFrame_congr (p : Params) {P Q : Payload} (h : value32 P = value32 Q) :
    encodeFrame p P = encodeFrame p Q := by
  simp only [encodeFrame, value35, h]

/-- DECODE's 37 pairs lie at positions 54 to 127 (R115). -/
theorem valuePairs_congr {S T : Frame} (h : ∀ i : Fin 128, 54 ≤ i.val → streamBit S i = streamBit T i) :
    valuePairs S = valuePairs T := by
  rw [valuePairs_eq, valuePairs_eq]
  refine List.map_congr_left fun k hk => ?_
  have hk' : k ≤ 36 := mem_countDown.1 hk
  exact extractLsb'_eq_of_streamBit_eq (by omega) fun i hi _ => h i (by omega)

/-- A slice of a word of a frame is the slice at its place in the frame (R31). -/
theorem extractLsb'_frameWord (S : Frame) (w : Fin 4) {start len : Nat} (fits : start + len ≤ 32) :
    (frameWord S w).extractLsb' start len = S.extractLsb' (96 - 32 * w + start) len := by
  ext j hj
  have hin : start + j < 32 := by omega
  simp [frameWord, hin, Nat.add_assoc]

/-- The detector's two slices as slices of the frame: the preamble at positions 10 to 17, the OEM field at 18 to 31
(R116). -/
theorem canDecode_eq (p : Params) (S : Frame) :
    canDecode p S = (S.extractLsb' 110 8 == preamble && S.extractLsb' 96 14 == manchester p.oemCode) := by
  rw [canDecode, extractLsb'_frameWord S 0 (by omega), extractLsb'_frameWord S 0 (by omega)]
  rfl

theorem canDecode_congr (p : Params) {S T : Frame}
    (h : ∀ i : Fin 128, 10 ≤ i.val → i.val < 32 → streamBit S i = streamBit T i) :
    canDecode p S = canDecode p T := by
  have hpreamble : S.extractLsb' 110 8 = T.extractLsb' 110 8 :=
    extractLsb'_eq_of_streamBit_eq (by omega) fun i hlow hhigh => h i (by omega) (by omega)
  have hoem : S.extractLsb' 96 14 = T.extractLsb' 96 14 :=
    extractLsb'_eq_of_streamBit_eq (by omega) fun i hlow hhigh => h i (by omega) (by omega)
  rw [canDecode_eq, canDecode_eq, hpreamble, hoem]

/-- Settles O42: each function reads its operand through slices that lie within the bounds. -/
theorem codecReadsWithinBounds : Obligations.CodecReadsWithinBounds :=
  ⟨fun p _ _ h => encodeFrame_congr p (value32_congr h),
    fun _ _ h => by rw [decodeFrame, decodeFrame, valuePairs_congr h],
    fun p _ _ h => canDecode_congr p h⟩

/-! ### What the codec operations drive -/

/-- What a codec operation whose sizes suffice drives on the result ports of a block with the parameters `p`; an
operation of another kind is given no results here. -/
def codecResults (p : Params) : Instr → Results
  | .encode _ _ P => { wireOut := some (encodeFrame p P) }
  | .decode _ _ S => { payloadOut := some (decodeFrame S) }
  | .canDecode n S => { ok := some (canDecodeAnswer p n S) }
  | .encSize => { sizeOut := some 16#8 }
  | .decSize => { sizeOut := some 5#8 }
  | .edgeR _ => {}
  | .edgeF _ => {}
  | .read _ => {}
  | .resetState => {}

/-- A codec operation without a fatal cause drives its results and does nothing else (R100). -/
theorem operation_codec {i : Instr} (codec : isCodec i = true) (safe : fatalCauseOf i = .none) (s : State) :
    operation i s = s.withOut (codecResults s.config i) := by
  cases i with
  | encode n m P =>
    obtain ⟨hn, hm⟩ := (fatalCauseOf_encode_eq_none n m P).1 safe
    exact operation_encode hn hm P s
  | decode n m S =>
    obtain ⟨hn, hm⟩ := (fatalCauseOf_decode_eq_none n m S).1 safe
    exact operation_decode hn hm S s
  | canDecode n S => rfl
  | encSize => rfl
  | decSize => rfl
  | edgeR d => cases codec
  | edgeF d => cases codec
  | read n => cases codec
  | resetState => cases codec

/-- The results and the latch after a codec operation, from the operation and the parameters alone (R35, R100). -/
theorem exec_codec_out_fault {i : Instr} {s t : State} (codec : isCodec i = true) (live : s.fault = false)
    (h : exec i s = .next t) :
    t.out = (if fatalCauseOf i = .none then codecResults s.config i else {}) ∧
      t.fault = decide (fatalCauseOf i ≠ .none) := by
  rw [exec_live i live] at h
  injection h with h
  subst h
  by_cases safe : fatalCauseOf i = .none
  · simp [operation_codec codec safe, safe, live]
  · simp [operation_fatal safe, raiseFatal, safe]

/-- Settles O33: the results and the latch are functions of the operation and the parameters, which the two states
share. -/
theorem codecResultsDependOnOperandsOnly : Obligations.CodecResultsDependOnOperandsOnly := by
  intro i s s' t t' codec config live live' h h'
  obtain ⟨hout, hfault⟩ := exec_codec_out_fault codec live h
  obtain ⟨hout', hfault'⟩ := exec_codec_out_fault codec live' h'
  exact ⟨by rw [hout, hout', config], by rw [hfault, hfault']⟩

end Sys2Proof.Machine
end

section
/-! SUPPORT. What the decoder can answer (R51, R55), and which words belong to which row of the opcode table. -/

namespace Sys2Proof.Machine

open Sys2Proof.Laws

/-! ### Reserved words -/

/-- The checks of R55 as conditions on the fields. -/
theorem wellFormed_iff (f : Fields) :
    f.wellFormed = true ↔ (f.op = 0#3 ∨ f.r = 0#1) ∧ (¬ (f.op = 2#3 ∨ f.op = 6#3 ∨ f.op = 7#3) ∨ f.a = 0#32) ∧
      (f.op = 3#3 ∨ f.op = 4#3 ∨ f.b = 0#32) := by
  simp [Fields.wellFormed, Fields.rOk, Fields.aOk, Fields.bOk, and_assoc, or_assoc]

/-- The same checks on the fields read off the word by division (R50, R55). -/
theorem wellFormed_fieldsOf_iff (w : CommandWord) :
    (fieldsOf w).wellFormed = true ↔
      (w.toNat / 2 ^ 65 = 0 ∨ w.toNat / 2 ^ 64 % 2 = 0) ∧
      (¬ (w.toNat / 2 ^ 65 = 2 ∨ w.toNat / 2 ^ 65 = 6 ∨ w.toNat / 2 ^ 65 = 7) ∨ w.toNat / 2 ^ 32 % 2 ^ 32 = 0) ∧
      (w.toNat / 2 ^ 65 = 3 ∨ w.toNat / 2 ^ 65 = 4 ∨ w.toNat % 2 ^ 32 = 0) := by
  simp only [wellFormed_iff, ← BitVec.toNat_inj, fieldsOf_op_toNat, fieldsOf_r_toNat, fieldsOf_a_toNat,
    fieldsOf_b_toNat, BitVec.toNat_ofNat]

/-- All eight values of `op` are assigned (R51). -/
theorem op_cases : ∀ op : BitVec 3,
    op = 0#3 ∨ op = 1#3 ∨ op = 2#3 ∨ op = 3#3 ∨ op = 4#3 ∨ op = 5#3 ∨ op = 6#3 ∨ op = 7#3 := by decide

/-! ### The answers of the decoder -/

/-- The fields and the data ports from which each operation is read (R51). -/
inductive StandsFor (c : Command) : Fields → Instr → Prop where
  | edgeR (d : Word) : StandsFor c ⟨0#3, 1#1, d, 0#32⟩ (.edgeR d)
  | edgeF (d : Word) : StandsFor c ⟨0#3, 0#1, d, 0#32⟩ (.edgeF d)
  | read (n : Word) : StandsFor c ⟨1#3, 0#1, n, 0#32⟩ (.read n)
  | resetState : StandsFor c ⟨2#3, 0#1, 0#32, 0#32⟩ .resetState
  | encode (n m : Word) : StandsFor c ⟨3#3, 0#1, n, m⟩ (.encode n m c.payloadIn)
  | decode (n m : Word) : StandsFor c ⟨4#3, 0#1, n, m⟩ (.decode n m c.wireIn)
  | canDecode (n : Word) : StandsFor c ⟨5#3, 0#1, n, 0#32⟩ (.canDecode n c.wireIn)
  | encSize : StandsFor c ⟨6#3, 0#1, 0#32, 0#32⟩ .encSize
  | decSize : StandsFor c ⟨7#3, 0#1, 0#32, 0#32⟩ .decSize

/-- What the decoder may answer to a command with the fields `f`: the operation they stand for, or that one of them is
nonzero where R55 wants zero. -/
inductive Answer (c : Command) (f : Fields) : Except Reserved Instr → Prop where
  | operation {i : Instr} (stands : StandsFor c f i) : Answer c f (.ok i)
  | reserved {why : Reserved} (illFormed : ¬ f.wellFormed = true) : Answer c f (.error why)

theorem ifZeroB_answer {c : Command} {f : Fields} {i : Instr} (unused : ¬ (f.op = 3#3 ∨ f.op = 4#3))
    (stands : f.b = 0#32 → StandsFor c f i) : Answer c f (ifZeroB f i) := by
  unfold ifZeroB
  split
  case isTrue hb => exact .operation (stands hb)
  case isFalse hb => exact .reserved fun wf => by obtain ⟨-, -, hbOk⟩ := (wellFormed_iff f).1 wf; tauto

theorem ifZeroAB_answer {c : Command} {f : Fields} {i : Instr} (noOperand : f.op = 2#3 ∨ f.op = 6#3 ∨ f.op = 7#3)
    (stands : f.a = 0#32 → f.b = 0#32 → StandsFor c f i) : Answer c f (ifZeroAB f i) := by
  unfold ifZeroAB
  split
  case isTrue ha =>
    refine ifZeroB_answer ?_ (stands ha)
    rcases noOperand with h | h | h <;> rw [h] <;> decide
  case isFalse ha => exact .reserved fun wf => by obtain ⟨-, haOk, -⟩ := (wellFormed_iff f).1 wf; tauto

/-- With `op = 000` the field `r` tells the two edges apart (R51). -/
theorem decodeEdge_answer (c : Command) {f : Fields} (hop : f.op = 0#3) :
    Answer c f (ifZeroB f (if f.r = 1#1 then .edgeR f.a else .edgeF f.a)) := by
  obtain ⟨op, r, a, b⟩ := f
  subst hop
  refine ifZeroB_answer (by simp) fun (hb : b = 0#32) => ?_
  subst hb
  obtain rfl | rfl := BitVec.eq_zero_or_eq_one r
  · exact .edgeF a
  · exact .edgeR a

/-- The operation map answers for each of the seven values of `op` that it is asked about (R51). -/
theorem decodeOp_answer (c : Command) {f : Fields} (hop : f.op ≠ 0#3) (hr : f.r = 0#1) :
    Answer c f (decodeOp f c) := by
  obtain ⟨op, r, a, b⟩ := f
  subst hr
  obtain rfl | rfl | rfl | rfl | rfl | rfl | rfl | rfl := op_cases op
  · exact absurd rfl hop
  · exact ifZeroB_answer (by simp) (by rintro rfl; exact .read a)
  · exact ifZeroAB_answer (by simp) (by rintro rfl rfl; exact .resetState)
  · exact .operation (.encode a b)
  · exact .operation (.decode a b)
  · exact ifZeroB_answer (by simp) (by rintro rfl; exact .canDecode a)
  · exact ifZeroAB_answer (by simp) (by rintro rfl rfl; exact .encSize)
  · exact ifZeroAB_answer (by simp) (by rintro rfl rfl; exact .decSize)

/-- Whatever the decoder answers, it is right about the fields of the word (R51, R55). -/
theorem decodeCommand_answer (c : Command) : Answer c (fieldsOf c.cmd) (decodeCommand c) := by
  unfold decodeCommand
  by_cases hop : (fieldsOf c.cmd).op = 0#3
  · simpa only [if_pos hop] using decodeEdge_answer c hop
  · by_cases hr : (fieldsOf c.cmd).r = 0#1
    · simpa only [if_neg hop, if_pos hr] using decodeOp_answer c hop hr
    · simp only [if_neg hop, if_neg hr]
      exact .reserved fun wf => ((wellFormed_iff _).1 wf).1.elim hop hr

theorem decodeCommand_ok {c : Command} {i : Instr} (h : decodeCommand c = .ok i) :
    StandsFor c (fieldsOf c.cmd) i := by
  cases h ▸ decodeCommand_answer c with
  | operation stands => exact stands

theorem decodeCommand_error {c : Command} {why : Reserved} (h : decodeCommand c = .error why) :
    ¬ (fieldsOf c.cmd).wellFormed = true := by
  cases h ▸ decodeCommand_answer c with
  | reserved illFormed => exact illFormed

/-! ### The encoder against the decoder -/

/-- The encoder makes its word of the fields that stand for the operation (R51). -/
theorem StandsFor.encodeCommand_cmd {c : Command} {f : Fields} {i : Instr} (h : StandsFor c f i) :
    (encodeCommand i).cmd = wordOf f := by
  cases h <;> rfl

/-- A command that decodes has the word the encoder gives its operation. -/
theorem encodeCommand_cmd_of_decodeCommand {c : Command} {i : Instr} (h : decodeCommand c = .ok i) :
    (encodeCommand i).cmd = c.cmd := by
  rw [(decodeCommand_ok h).encodeCommand_cmd, wordOf_fieldsOf]

/-- Of the operations only ENCODE carries the payload port (R51). -/
theorem StandsFor.payloadIn {c : Command} {f : Fields} {i : Instr} (h : StandsFor c f i) :
    (encodeCommand i).payloadIn = c.payloadIn ∨ ∀ n m P, i ≠ .encode n m P := by
  cases h with
  | encode n m => exact .inl rfl
  | _ => exact .inr (by simp)

/-- Of the operations only DECODE and CAN_DECODE carry the wire port (R51). -/
theorem StandsFor.wireIn {c : Command} {f : Fields} {i : Instr} (h : StandsFor c f i) :
    (encodeCommand i).wireIn = c.wireIn ∨ ((∀ n m S, i ≠ .decode n m S) ∧ ∀ n S, i ≠ .canDecode n S) := by
  cases h with
  | decode n m => exact .inl rfl
  | canDecode n => exact .inl rfl
  | _ => exact .inr (by simp)

/-- Settles O4: the decoder reads back the four fields that the encoder put together (`fieldsOf_wordOf`), operation by
operation. -/
theorem decodeInvertsEncode : Obligations.DecodeInvertsEncode := decodeCommand_encodeCommand

/-- Settles O5: the fields and ports that stand for the operation are those the encoder puts together. -/
theorem encodeInvertsDecode : Obligations.EncodeInvertsDecode := fun _ _ h =>
  ⟨encodeCommand_cmd_of_decodeCommand h, (decodeCommand_ok h).payloadIn, (decodeCommand_ok h).wireIn⟩

/-! ### The reserved words and the rows of the table -/

/-- The encoder's word is not reserved and belongs to the operation's row. -/
theorem encodeCommand_unreservedRow (i : Instr) : UnreservedRow.Statement i := by
  cases i with
  | edgeR d => exact UnreservedRow.edgeR d
  | edgeF d => exact UnreservedRow.edgeF d
  | read n => exact UnreservedRow.read n
  | resetState => exact UnreservedRow.resetState
  | encode n m P => exact UnreservedRow.encode n m P
  | decode n m S => exact UnreservedRow.decode n m S
  | canDecode n S => exact UnreservedRow.canDecode n S
  | encSize => exact UnreservedRow.encSize
  | decSize => exact UnreservedRow.decSize

/-- A command that decodes is not reserved, and its word belongs to the row of its operation. -/
theorem unreservedRow_of_decodeCommand {c : Command} {i : Instr} (h : decodeCommand c = .ok i) :
    (fieldsOf c.cmd).wellFormed = true ∧ (opcodeRow i).covers c.cmd = true :=
  encodeCommand_cmd_of_decodeCommand h ▸ encodeCommand_unreservedRow i

/-- The decoder rejects exactly the words that fail a check of R55. -/
theorem exists_decodeCommand_error_iff (c : Command) :
    (∃ why, decodeCommand c = .error why) ↔ ¬ (fieldsOf c.cmd).wellFormed = true := by
  refine ⟨fun ⟨_, h⟩ => decodeCommand_error h, fun illFormed => ?_⟩
  cases h : decodeCommand c with
  | error why => exact ⟨why, rfl⟩
  | ok i => exact absurd (unreservedRow_of_decodeCommand h).1 illFormed

/-- Settles O6: the words rejected are those that fail a check, and the checks are read as statements about numbers. -/
theorem reservedWordsAreTheNonzeroFields : Obligations.ReservedWordsAreTheNonzeroFields := by
  intro c op r a b
  have hop : op < 8 := Nat.div_lt_of_lt_mul c.cmd.isLt
  have hr : r < 2 := Nat.mod_lt _ (by decide)
  rw [exists_decodeCommand_error_iff, wellFormed_fieldsOf_iff]
  change ¬ ((op = 0 ∨ r = 0) ∧ (¬ (op = 2 ∨ op = 6 ∨ op = 7) ∨ a = 0) ∧ (op = 3 ∨ op = 4 ∨ b = 0)) ↔ _
  omega

/-- A word belongs to a row only if it agrees with the row's pattern under the row's mask; what two rows ask of one word
can then be compared without the word. -/
theorem patterns_agree_of_covers {row row' : OpcodeRow} {w : CommandWord} (h : row.covers w = true)
    (h' : row'.covers w = true) : row.pattern &&& row'.mask = row'.pattern &&& row.mask := by
  rw [OpcodeRow.covers, beq_iff_eq] at h h'
  rw [← h, ← h', BitVec.and_assoc, BitVec.and_assoc, BitVec.and_comm row.mask]

/-- No two rows of the table ask for patterns that one word could have. -/
theorem opcodeTable_patterns_disjoint :
    ∀ row ∈ opcodeTable, ∀ row' ∈ opcodeTable, row.pattern &&& row'.mask = row'.pattern &&& row.mask → row' = row := by
  decide

theorem opcodeRow_mem_opcodeTable (i : Instr) : opcodeRow i ∈ opcodeTable := by
  cases i <;> simp [opcodeTable, opcodeRow]

/-- Each row stands in the table once. -/
theorem filter_eq_of_mem_opcodeTable : ∀ row ∈ opcodeTable, opcodeTable.filter (· == row) = [row] := by decide

/-- A word that belongs to an operation's row belongs to no other row of the table. -/
theorem opcodeTable_filter_covers {w : CommandWord} {i : Instr} (h : (opcodeRow i).covers w = true) :
    opcodeTable.filter (·.covers w) = [opcodeRow i] := by
  rw [← filter_eq_of_mem_opcodeTable _ (opcodeRow_mem_opcodeTable i)]
  refine List.filter_congr fun row hrow => Bool.eq_iff_iff.2 ?_
  rw [beq_iff_eq]
  exact ⟨fun hcov => opcodeTable_patterns_disjoint _ (opcodeRow_mem_opcodeTable i) _ hrow
    (patterns_agree_of_covers h hcov), fun e => e ▸ h⟩

/-- Under a mask of ones the whole field is looked at. -/
theorem eq_of_and_ones {n : Nat} {x m y : BitVec n} (ones : m = BitVec.allOnes n) (h : x &&& m = y) : x = y := by
  rwa [ones, BitVec.and_allOnes] at h

/-- Every row looks at the fields `op` and `r` whole and at the fields that R55 wants zero for its `op`, and asks for a
pattern that is not reserved. -/
theorem opcodeTable_masks : ∀ row ∈ opcodeTable,
    (fieldsOf row.pattern).wellFormed = true ∧
    (fieldsOf row.mask).op = BitVec.allOnes 3 ∧ (fieldsOf row.mask).r = BitVec.allOnes 1 ∧
    (¬ ((fieldsOf row.pattern).op = 2#3 ∨ (fieldsOf row.pattern).op = 6#3 ∨ (fieldsOf row.pattern).op = 7#3) ∨
      (fieldsOf row.mask).a = BitVec.allOnes 32) ∧
    ((fieldsOf row.pattern).op = 3#3 ∨ (fieldsOf row.pattern).op = 4#3 ∨
      (fieldsOf row.mask).b = BitVec.allOnes 32) := by decide

/-- A word that belongs to a row of the table is not reserved: its fields that R55 looks at are those of the row's
pattern. -/
theorem wellFormed_of_covers {row : OpcodeRow} (hrow : row ∈ opcodeTable) {w : CommandWord}
    (h : row.covers w = true) : (fieldsOf w).wellFormed = true := by
  obtain ⟨hpattern, mop, mr, ma, mb⟩ := opcodeTable_masks row hrow
  obtain ⟨hop, hr, ha, hb⟩ := (covers_iff _ _ (wordOf_fieldsOf _).symm (wordOf_fieldsOf _).symm w).1 h
  rw [wellFormed_iff] at hpattern ⊢
  rw [eq_of_and_ones mop hop, eq_of_and_ones mr hr]
  obtain ⟨pr, pa, pb⟩ := hpattern
  refine ⟨pr, ?_, ?_⟩
  · rcases ma with ma | ma
    · exact .inl ma
    · rwa [eq_of_and_ones ma ha]
  · rcases mb with mb | mb | mb
    · exact .inl mb
    · exact .inr (.inl mb)
    · rwa [eq_of_and_ones mb hb]

/-- Settles O7: the row of a decoded word excludes all others by their patterns, and a row takes in no reserved word. -/
theorem opcodeTableIsUnambiguous : Obligations.OpcodeTableIsUnambiguous := by
  refine ⟨fun c i h => opcodeTable_filter_covers (unreservedRow_of_decodeCommand h).2, fun c why h => ?_⟩
  rw [List.filter_eq_nil_iff]
  exact fun row hrow hcovers => decodeCommand_error h (wellFormed_of_covers hrow hcovers)

/-- Settles O3 by evaluating the decoder on the twelve words. -/
theorem listedCommandWordsDecode : Obligations.ListedCommandWordsDecode := by
  unfold Obligations.ListedCommandWordsDecode
  decide

end Sys2Proof.Machine
end

section
/-! SUPPORT. Pulses of a nominal width and trains of them (R57, R81), and the results that each operation drives (R51, R54). -/

namespace Sys2Proof.Machine

open Sys2Proof.Safety

/-! ### Pulses of a nominal width -/

/-- `PULSE w` is two edges whose durations add to `w`, as words and as numbers (R57). -/
theorem macroPulse_halves (w : Word) :
    ∃ d e, macroPulse w = [.edgeR d, .edgeF e] ∧ d.toNat + e.toNat = w.toNat ∧ d + e = w := by
  have hsum : w / 2#32 + (w - w / 2#32) = w := by rw [add_comm, BitVec.sub_add_cancel]
  have hhalf : (w / 2#32).toNat = w.toNat / 2 := by simp
  have hle : w / 2#32 ≤ w := by rw [BitVec.le_def, hhalf]; omega
  refine ⟨w / 2#32, w - w / 2#32, rfl, ?_, hsum⟩
  rw [BitVec.toNat_sub_of_le hle, hhalf]
  omega

/-- A pulse of `n` microseconds, `n` strictly between 44 and 100, has the class that the threshold 72 gives it, whatever
`CLOCKS_PER_US` is (R57, R74, R75). -/
theorem macroPulse_class (p : Params) {n : Nat} (hmin : 44 < n) (hmax : n < 100) :
    ∃ d e, macroPulse (BitVec.ofNat 32 (n * clocksPerUs p)) = [.edgeR d, .edgeF e] ∧
      d.toNat + e.toNat = n * clocksPerUs p ∧ classify p (d + e) = .pulse (if n < 72 then .short else .long) := by
  have hpos := clocksPerUs_pos p
  have hlt : n * clocksPerUs p < 100 * clocksPerUs p := Nat.mul_lt_mul_of_pos_right hmax hpos
  have hgt : 44 * clocksPerUs p < n * clocksPerUs p := Nat.mul_lt_mul_of_pos_right hmin hpos
  have hwidth : (BitVec.ofNat 32 (n * clocksPerUs p)).toNat = n * clocksPerUs p :=
    Nat.mod_eq_of_lt (hlt.trans (hundred_mul_clocksPerUs_lt p))
  obtain ⟨d, e, hedges, hnat, hword⟩ := macroPulse_halves (BitVec.ofNat 32 (n * clocksPerUs p))
  refine ⟨d, e, hedges, hnat.trans hwidth, ?_⟩
  rw [hword, classify_pulse (by rw [hwidth]; exact ⟨hgt, hlt⟩), hwidth, midClocks_eq]
  simp only [Nat.mul_lt_mul_right hpos]

/-- Settles O24: 64 is below the middle threshold of 72 microseconds, 80 is not, and both are inside the window. -/
theorem macroPulsesHaveTheirClass : Obligations.MacroPulsesHaveTheirClass := fun p =>
  ⟨macroPulse_class p (n := 64) (by decide) (by decide), macroPulse_class p (n := 80) (by decide) (by decide)⟩

/-! ### Runs of pulses that stand for bits -/

/-- Two trains one after the other: the second starts from the run that the first left. -/
theorem feed_append_bits (l : PulseClass) (n : Nat) (xs ys : List PulseClass) :
    (feed l n (xs ++ ys)).bits =
      (feed l n xs).bits ++ (feed (feed l n xs).last (feed l n xs).count ys).bits := by
  induction xs generalizing l n with
  | nil => rfl
  | cons x xs ih => simp only [List.cons_append, feed, ih, List.append_assoc]

/-- The runs in which a train of whole bits can stop, with what they still owe: after reset nothing, later the bit whose
last full run is not committed before the next pulse (R57, R81). -/
inductive Owes : PulseClass → Nat → List Bool → Prop where
  | nothing : Owes .short 0 []
  | zero : Owes .short 5 [false]
  | one : Owes .long 4 [true]

/-- Any further pulse commits what is owed: it fills the run up or ends it above the tail bar (R76, R77). -/
theorem Owes.feed_pulse {l : PulseClass} {n : Nat} {owed : List Bool} (h : Owes l n owed) (c : PulseClass) :
    (feed l n [c]).bits = owed := by
  cases h <;> cases c <;> rfl

/-- The pulses of a 1 commit what is owed and nothing of their own. -/
theorem Owes.feed_one {l : PulseClass} {n : Nat} {owed : List Bool} (h : Owes l n owed) :
    (feed l n (pulsesOfBit true)).bits = owed := by
  cases h <;> rfl

/-- The pulses of a bit commit what is owed before it, and what they do not commit of the bit itself they owe. -/
theorem Owes.feed_bit {l : PulseClass} {n : Nat} {owed : List Bool} (h : Owes l n owed) (b : Bool) :
    ∃ owed', Owes (feed l n (pulsesOfBit b)).last (feed l n (pulsesOfBit b)).count owed' ∧
      (feed l n (pulsesOfBit b)).bits ++ owed' = owed ++ [b] := by
  cases b with
  | true => cases h <;> exact ⟨[true], .one, rfl⟩
  | false =>
    cases h with
    | nothing => exact ⟨[], .nothing, rfl⟩
    | zero => exact ⟨[false], .zero, rfl⟩
    | one => exact ⟨[false], .zero, rfl⟩

/-- A train of whole bits, and after it pulses that commit whatever is owed and nothing else: the bits come out behind
what was owed before them. -/
theorem Owes.feed_bits {tail : List PulseClass}
    (flush : ∀ {l n owed}, Owes l n owed → (feed l n tail).bits = owed) (bits : List Bool) {l : PulseClass} {n : Nat}
    {owed : List Bool} (h : Owes l n owed) :
    (feed l n (bits.flatMap pulsesOfBit ++ tail)).bits = owed ++ bits := by
  induction bits generalizing l n owed with
  | nil => simpa using flush h
  | cons b bits ih =>
    obtain ⟨owed', h', hbits⟩ := h.feed_bit b
    calc (feed l n ((b :: bits).flatMap pulsesOfBit ++ tail)).bits
      _ = (feed l n (pulsesOfBit b)).bits ++ (owed' ++ bits) := by
        rw [List.flatMap_cons, List.append_assoc, feed_append_bits, ih h']
      _ = owed ++ b :: bits := by rw [← List.append_assoc, hbits, List.append_assoc]; rfl

/-- Settles O23: after a reset nothing is owed, and one more pulse, or the pulses of a last 1, commit exactly what the
bits before them owe. -/
theorem frameBitsAreRecovered : Obligations.FrameBitsAreRecovered := by
  refine fun bits c => ⟨Owes.nothing.feed_bits (fun h => h.feed_pulse c) bits, ?_⟩
  rw [List.flatMap_append, List.flatMap_singleton]
  exact Owes.nothing.feed_bits Owes.feed_one bits

/-! ### The results that an operation drives -/

@[simp] theorem commitIfAny_out (b : Option Bool) (s : State) : (commitIfAny b s).out = s.out := by cases b <;> rfl
@[simp] theorem acceptPulse_out (c : PulseClass) (s : State) : (acceptPulse c s).out = s.out := by
  simp [acceptPulse]

theorem fallingEdge_out (d : Word) (s : State) : (fallingEdge d s).out = s.out := by
  cases hc : classify s.config (s.pulseClocks + d) with
  | noise => rw [fallingEdge_noise hc]
  | pulse c => rw [fallingEdge_pulse hc, acceptPulse_out]

theorem gate_out {op : State → State} {s : State} (h : (op s).out = s.out) : (gate op s).out = s.out := by
  cases hr : s.ready with
  | true => rw [gate_ready op hr]
  | false => rw [gate_open op hr, h]

/-- What READ drives: the frame if one is waiting, otherwise only the answer that none is (R90). -/
def readResults (s : State) : Results :=
  if s.ready then { ok := some true, frameOut := some s.frame } else { ok := some false }

theorem readFrame_out (s : State) : (readFrame s).out = readResults s := by
  cases hr : s.ready with
  | true => simp [readFrame_ready hr, readResults, hr]
  | false => simp [readFrame_empty hr, readResults, hr]

/-- What each operation drives when it completes on a live block (R51, R54). -/
def drivenResults (s : State) : Instr → Results
  | .edgeR _ => {}
  | .edgeF _ => {}
  | .read _ => readResults s
  | .resetState => {}
  | .encode n m P => codecResults s.config (.encode n m P)
  | .decode n m S => codecResults s.config (.decode n m S)
  | .canDecode n S => codecResults s.config (.canDecode n S)
  | .encSize => codecResults s.config .encSize
  | .decSize => codecResults s.config .decSize

/-- An operation without a fatal cause drives its results on ports on which nothing was driven. -/
theorem operation_out {i : Instr} (safe : fatalCauseOf i = .none) (s : State) :
    (operation i (quiet s)).out = drivenResults s i := by
  cases i with
  | edgeR d => exact gate_out rfl
  | edgeF d => exact gate_out (fallingEdge_out d _)
  | read n => rw [operation_read ((fatalCauseOf_read_eq_none n).1 safe)]; exact readFrame_out (quiet s)
  | resetState => rfl
  | _ => rw [operation_codec rfl safe]; rfl

/-- The ports that READ drives: `ok` always, `frame_out` only with a frame waiting. -/
theorem readResults_driven (s : State) :
    (readResults s).ok.isSome = true ∧ ((readResults s).frameOut.isSome = true ↔ s.ready = true) ∧
      (readResults s).wireOut = none ∧ (readResults s).payloadOut = none ∧ (readResults s).sizeOut = none := by
  cases hr : s.ready <;> simp [readResults, hr]

/-- Settles O48: the results of each operation are those of `drivenResults`, and the ports driven there are read off. -/
theorem resultsAreDrivenAsListed : Obligations.ResultsAreDrivenAsListed := by
  intro i s t live safe h
  have hout : t.out = drivenResults s i := by
    rw [exec_live i live] at h
    injection h with h
    rw [← h, operation_out safe]
  rw [hout]
  cases i with
  | read n => simp [drivenResults, readResults_driven]
  | _ => simp [drivenResults, codecResults]

end Sys2Proof.Machine
end

section
/-! SUPPORT. The edge operations of a live block (R70 to R79): a rising edge, a falling edge of each kind, and what a
committed bit does to the frame buffer. -/

namespace Sys2Proof.Machine

open Sys2Proof.Safety

/-! ### Edges that are dropped, and rising edges -/

/-- With a frame waiting an edge does nothing (R72). -/
theorem operation_edge_ready {edge : Instr} (hedge : isEdge edge = true) {s : State} (waiting : s.ready = true) :
    operation edge s = s := by
  cases edge with
  | edgeR d => exact gate_ready _ waiting
  | edgeF d => exact gate_ready _ waiting
  | _ => cases hedge

/-- With no frame waiting a rising edge stores its duration (R70). -/
theorem operation_edgeR (d : Word) {s : State} (unread : s.ready = false) :
    operation (.edgeR d) s = { s with pulseClocks := d } := gate_open _ unread

/-- Settles O12: both edges leave the state with nothing driven as it is. -/
theorem edgesAreDroppedWhileReady : Obligations.EdgesAreDroppedWhileReady := by
  intro s d live waiting
  have dropped {edge : Instr} (hedge : isEdge edge = true) : exec edge s = .next { s with out := {} } := by
    rw [exec_live edge live, operation_edge_ready hedge (s := quiet s) waiting, quiet_eq]
  exact ⟨⟨{}, dropped rfl⟩, {}, dropped rfl⟩

/-- Settles O11: the word is put together from its fields; the two values of `ready` are the two cases of the gate. -/
theorem risingEdgeStoresDuration : Obligations.RisingEdgeStoresDuration := by
  refine fun s d live => ⟨by simp [encodeCommand, wordOf_toNat], {}, ?_⟩
  rw [exec_live _ live]
  cases hr : s.ready with
  | true => rw [operation_edge_ready rfl (s := quiet s) hr]; simp [quiet_eq, hr]
  | false => rw [operation_edgeR d (s := quiet s) hr]; simp [quiet_eq, hr]

/-! ### The run update in numbers -/

/-- A pulse of the run's own class: it completes a full run, or it is counted (R76). -/
theorem runUpdate_same (c : PulseClass) (n : Nat) :
    runUpdate c n c = if fullRun c ≤ n + 1 then ⟨c, 0, some c.bit⟩ else ⟨c, n + 1, none⟩ := by
  cases c <;> simp [runUpdate, sameClass, fullLong, fullShort, fullRun, PulseClass.bit, Nat.succ_le_iff]

/-- A pulse of the other class: the run ends, with a bit if it reached the tail bar (R77). -/
theorem runUpdate_change {l c : PulseClass} (h : c ≠ l) (n : Nat) :
    runUpdate l n c = ⟨c, 0, if tailRun l ≤ n then some l.bit else none⟩ := by
  rw [runUpdate, if_neg h]
  cases l <;> simp [tailBit, tailLong, tailShort, tailRun, PulseClass.bit, Nat.succ_le_iff]

/-- The count goes up exactly at a pulse of the run's class that commits nothing; otherwise it is 0 (R76, R77). -/
theorem runUpdate_count (l c : PulseClass) (n : Nat) :
    (runUpdate l n c).count = if c = l ∧ (runUpdate l n c).commit = none then n + 1 else 0 := by
  by_cases h : c = l
  · subst h
    rw [runUpdate_same]
    split <;> simp
  · simp [runUpdate_change h, h]

/-! ### What a pulse does to the state -/

/-- A pulse that makes the run full commits the bit of its class (R76). -/
theorem acceptPulse_full {c : PulseClass} {s : State} (same : c = s.lastPulseLength)
    (full : fullRun c ≤ s.pulseCount + 1) : acceptPulse c s = { commitBit c.bit s with pulseCount := 0 } := by
  subst same
  rw [acceptPulse, runUpdate_same, if_pos full]
  rfl

/-- A pulse of the run's class that does not make it full is counted (R76). -/
theorem acceptPulse_counted {c : PulseClass} {s : State} (same : c = s.lastPulseLength)
    (notFull : ¬ fullRun c ≤ s.pulseCount + 1) : acceptPulse c s = { s with pulseCount := s.pulseCount + 1 } := by
  subst same
  rw [acceptPulse, runUpdate_same, if_neg notFull]
  rfl

/-- A pulse of the other class starts a new run, and commits the bit of the old one if that reached the tail bar
(R77). -/
theorem acceptPulse_change {c : PulseClass} {s : State} (differs : c ≠ s.lastPulseLength) :
    acceptPulse c s =
      { (if tailRun s.lastPulseLength ≤ s.pulseCount then commitBit s.lastPulseLength.bit s else s) with
        pulseCount := 0, lastPulseLength := c } := by
  rw [acceptPulse, runUpdate_change differs]
  split <;> rfl

/-- Settles O16: a full run is above 4 when long and above 5 when short. -/
theorem sameClassPulseExtendsTheRun : Obligations.SameClassPulseExtendsTheRun := by
  intro s c same
  by_cases full : fullRun c ≤ s.pulseCount + 1
  · rw [acceptPulse_full same full]
    cases c with
    | short => rw [if_neg (by simp), if_pos ⟨rfl, full⟩, PulseClass.bit]
    | long => rw [if_pos ⟨rfl, full⟩, PulseClass.bit]
  · rw [acceptPulse_counted same full]
    cases c with
    | short => rw [if_neg (by simp), if_neg fun above => full above.2]
    | long => rw [if_neg fun above => full above.2, if_neg (by simp)]

/-- Settles O17: the tail bar is a count above 2 when long and above 3 when short. -/
theorem classChangeEndsTheRun : Obligations.ClassChangeEndsTheRun := by
  intro s c differs
  rw [acceptPulse_change differs]
  cases s.lastPulseLength <;> simp [tailRun, PulseClass.bit, Nat.succ_le_iff]

/-- The whole state after a pulse, from the bit that its run update commits (R76 to R79). -/
theorem acceptPulse_eq {c : PulseClass} {s : State} {bit : Option Bool}
    (commits : (runUpdate s.lastPulseLength s.pulseCount c).commit = bit) :
    acceptPulse c s = commitIfAny bit { s with
      lastPulseLength := c
      pulseCount := if c = s.lastPulseLength ∧ bit = none then s.pulseCount + 1 else 0 } := by
  subst commits
  rw [acceptPulse, ← runUpdate_count, runUpdate_last]
  rfl

/-! ### Falling edges -/

/-- With no frame waiting a falling edge whose sum is noise leaves only the sum (R74). -/
theorem operation_edgeF_noise {d : Word} {s : State} (unread : s.ready = false)
    (h : classify s.config (s.pulseClocks + d) = .noise) :
    operation (.edgeF d) s = { s with pulseClocks := s.pulseClocks + d } := by
  rw [operation, gate_open _ unread, fallingEdge_noise h]

/-- With no frame waiting a falling edge whose sum is a pulse updates the run (R71). -/
theorem operation_edgeF_pulse {d : Word} {s : State} {c : PulseClass} (unread : s.ready = false)
    (h : classify s.config (s.pulseClocks + d) = .pulse c) :
    operation (.edgeF d) s = acceptPulse c { s with pulseClocks := s.pulseClocks + d } := by
  rw [operation, gate_open _ unread, fallingEdge_pulse h]

/-- The sum of the half-pulses is the number that the statements name, cut to a word (R73, D5). -/
theorem add_eq_ofNat (x y : Word) : x + y = BitVec.ofNat 32 ((x.toNat + y.toNat) % 2 ^ 32) := by
  rw [← BitVec.toNat_add, BitVec.ofNat_toNat, BitVec.setWidth_eq]

/-- Settles O14: a sum outside the window is noise. -/
theorem noiseLeavesTheRunUntouched : Obligations.NoiseLeavesTheRunUntouched := by
  intro s d live unread t outside
  have noise : classify s.config (s.pulseClocks + d) = .noise :=
    classify_noise (by rwa [BitVec.toNat_add, minClocks_eq, maxClocks_eq])
  rw [exec_live _ live, operation_edgeF_noise (s := quiet s) unread noise, quiet_pulseClocks, add_eq_ofNat]
  rfl

/-- The bit that a run update commits, in the numbers of R76 and R77. -/
theorem runUpdate_commit_eq (l c : PulseClass) (n : Nat) :
    (runUpdate l n c).commit =
      if c = l then if c = .long ∧ n + 1 > 4 then some true else if c = .short ∧ n + 1 > 5 then some false else none
      else if l = .long ∧ n > 2 then some true else if l = .short ∧ n > 3 then some false else none := by
  rw [runUpdate, sameClass, apply_ite RunResult.commit, apply_ite RunResult.commit, apply_ite RunResult.commit]
  rfl

/-- The shifted frame is the number that the statements name, cut to 128 bits (R78). -/
theorem shiftIn_eq_ofNat (S : Frame) (b : Bool) :
    shiftIn S b = BitVec.ofNat 128 ((S.toNat * 2 + b.toNat) % 2 ^ 128) := by
  rw [← shiftIn_toNat, BitVec.ofNat_toNat, BitVec.setWidth_eq]

/-- Settles O15: the class is that of the sum and the bit that of the run update; the rest is by whether there is a
bit. -/
theorem fallingEdgeUpdatesTheRun : Obligations.FallingEdgeUpdatesTheRun := by
  intro s d live unread t above below c bit
  have pulse : classify s.config (s.pulseClocks + d) = .pulse c := by
    rw [classify_pulse] <;> simp only [BitVec.toNat_add, minClocks_eq, midClocks_eq, maxClocks_eq]
    · rfl
    · exact ⟨above, below⟩
  have commits : (runUpdate s.lastPulseLength s.pulseCount c).commit = bit := runUpdate_commit_eq _ c _
  have result : exec (.edgeF d) s = .next (commitIfAny bit { s with
      pulseClocks := BitVec.ofNat 32 t
      lastPulseLength := c
      pulseCount := if c = s.lastPulseLength ∧ bit = none then s.pulseCount + 1 else 0
      out := {} }) := by
    rw [exec_live _ live, operation_edgeF_pulse (s := quiet s) unread pulse,
      acceptPulse_eq (s := { quiet s with pulseClocks := _ }) commits, quiet_pulseClocks, add_eq_ofNat]
    rfl
  rw [result]
  clear_value bit
  cases bit with
  | none => simp [commitIfAny, unread]
  | some b =>
    simp only [← shiftIn_eq_ofNat]
    simp [commitIfAny, commitBit, State.withFrame, State.withReady, unread]

/-! ### The frame buffer and `ready` -/

/-- A word of a frame as a number, `W0` being the most significant (R31). -/
theorem frameWord_toNat (S : Frame) (k : Fin 4) :
    (frameWord S k).toNat = S.toNat / 2 ^ (96 - 32 * k.val) % 2 ^ 32 := by
  rw [frameWord, BitVec.extractLsb'_toNat, Nat.shiftRight_eq_div_pow]

/-- The four words of a frame as numbers. -/
theorem frameWords_toNat (S : Frame) :
    (frameWord S 0).toNat = S.toNat / 2 ^ 96 % 2 ^ 32 ∧ (frameWord S 1).toNat = S.toNat / 2 ^ 64 % 2 ^ 32 ∧
      (frameWord S 2).toNat = S.toNat / 2 ^ 32 % 2 ^ 32 ∧ (frameWord S 3).toNat = S.toNat / 2 ^ 0 % 2 ^ 32 :=
  ⟨frameWord_toNat S 0, frameWord_toNat S 1, frameWord_toNat S 2, frameWord_toNat S 3⟩

/-- After a shift a stream position holds the bit of the next one, and the last position the new bit (R78). -/
theorem streamBit_shiftIn (S : Frame) (b : Bool) (i : Fin 128) :
    streamBit (shiftIn S b) i = if 127 - i.val = 0 then b else S.getLsbD (127 - i.val - 1) := by
  rw [streamBit, shiftIn, BitVec.getLsbD_shiftConcat, decide_eq_true (by omega), Bool.true_and]

/-- Settles O18: the frame doubles as a number, its words are read off that number, and its bits move by one. -/
theorem commitShiftsTheFrame : Obligations.CommitShiftsTheFrame := by
  intro s b F G
  have doubled : G.toNat = (F.toNat * 2 + b.toNat) % 2 ^ 128 := shiftIn_toNat F b
  have bound : F.toNat < 2 ^ 128 := F.isLt
  have bit : b.toNat ≤ 1 := b.toNat_le
  obtain ⟨F0, F1, F2, F3⟩ := frameWords_toNat F
  obtain ⟨G0, G1, G2, G3⟩ := frameWords_toNat G
  refine ⟨doubled, by omega, by omega, by omega, by omega, fun k => ?_, streamBit_shiftIn F b 127⟩
  have hk : ¬ 127 - k.castSucc.val = 0 := by rw [Fin.val_castSucc]; omega
  rw [show G = shiftIn F b from rfl, streamBit_shiftIn, if_neg hk, streamBit, Fin.val_succ]
  rfl

/-- Settles O19: of the effects only an accepted pulse raises `ready`, where it committed a bit and the detector was
satisfied by the frame with that bit. -/
theorem readyRisesOnlyAtADetectedCommit : Obligations.ReadyRisesOnlyAtADetectedCommit := by
  intro i s t h unread risen
  have unchanged {u : State} (same : u.ready = s.ready) : ¬ u.ready = true := by simp [same, unread]
  cases exec_effect h with
  | portsOnly o => exact absurd risen (unchanged rfl)
  | clocksStored t _ => exact absurd risen (unchanged rfl)
  | pulseAccepted d c _ _ =>
    obtain ⟨-, same⟩ | ⟨b, hframe, hready⟩ :=
      acceptPulse_frame_ready c ((quiet s).withPulseClocks (pulseSum s d))
    · exact absurd risen (unchanged same)
    · rw [hready] at risen
      rw [hframe]
      exact ⟨d, b, rfl, shiftIn_toNat s.frame b, by simpa [unread] using risen⟩
  | frameTaken n o => cases risen
  | runCleared => cases risen
  | latched _ => exact absurd risen (unchanged rfl)

end Sys2Proof.Machine
end

section
/-! SUPPORT. The run accounting: how many bits a run of equal pulses commits (R81), and the refinement of the accounting
by the machine running a train of pulses. -/

namespace Sys2Proof.Machine

open Sys2Proof.Safety

/-! ### Runs of equal pulses -/

/-- The number of bits that a run of `m` counted pulses has committed once it is over: one for each full run, and one
more if the leftover reaches the tail bar (R81). -/
def runCommits (c : PulseClass) (m : Nat) : Nat := m / fullRun c + if tailRun c ≤ m % fullRun c then 1 else 0

theorem fullRun_pos (c : PulseClass) : 0 < fullRun c := by cases c <;> decide

/-- A run that is not full commits at most the bit of its tail. -/
theorem runCommits_of_lt {c : PulseClass} {m : Nat} (h : m < fullRun c) :
    runCommits c m = if tailRun c ≤ m then 1 else 0 := by
  rw [runCommits, Nat.div_eq_of_lt h, Nat.mod_eq_of_lt h, Nat.zero_add]

/-- One more full run commits one more bit. -/
theorem runCommits_add_fullRun (c : PulseClass) (m : Nat) : runCommits c (m + fullRun c) = runCommits c m + 1 := by
  rw [runCommits, Nat.add_div_right _ (fullRun_pos c), Nat.add_mod_right, Nat.add_right_comm, runCommits]

/-- A run that stands at count `k`, extended by `n` pulses of its class and ended by the other class. -/
theorem feed_run {c other : PulseClass} (differs : other ≠ c) (n : Nat) {k : Nat} (notFull : k < fullRun c) :
    feed c k (List.replicate n c ++ [other]) = ⟨other, 0, List.replicate (runCommits c (k + n)) c.bit⟩ := by
  induction n generalizing k with
  | zero =>
    simp only [List.replicate_zero, List.nil_append, feed, runUpdate_change differs, Nat.add_zero,
      runCommits_of_lt notFull, List.append_nil]
    split <;> rfl
  | succ n ih =>
    simp only [List.replicate_succ, List.cons_append, feed, runUpdate_same]
    by_cases full : fullRun c ≤ k + 1
    · have hk : k + (n + 1) = 0 + n + fullRun c := by omega
      simp only [if_pos full, ih (fullRun_pos c), hk, runCommits_add_fullRun, List.replicate_succ]
      rfl
    · simp only [if_neg full, ih (Nat.lt_of_not_le full), Option.toList_none, List.nil_append,
        Nat.add_right_comm k 1 n, Nat.add_assoc]

/-- Settles O21: the first pulse ends the other run and counts for nothing; the rest is a run from count 0. -/
theorem runAccountingAfterAChange : Obligations.RunAccountingAfterAChange := by
  intro c other count n differs pos
  obtain ⟨m, rfl⟩ : ∃ m, n = m + 1 := ⟨n - 1, by omega⟩
  simp only [List.replicate_succ, List.cons_append, feed, runUpdate_change differs.symm,
    feed_run differs m (fullRun_pos c), Nat.zero_add, Nat.add_sub_cancel]
  split <;> rfl

/-- Settles O22: after a reset a short run stands at count 0; a long one is a run after a short run of count 0. -/
theorem runAccountingAfterReset : Obligations.RunAccountingAfterReset := by
  refine ⟨fun n => ?_, fun n pos => ?_⟩
  · rw [feed_run (by decide) n (fullRun_pos .short), Nat.zero_add]
    rfl
  · rw [runAccountingAfterAChange .long .short 0 n (by decide) pos]
    rfl

/-! ### Trains of pulses -/

/-- What the two edges of a pulse do to a live block, one after the other. -/
def afterPulse (s : State) (w : Word × Word) : State :=
  operation (.edgeF w.2) (quiet (operation (.edgeR w.1) (quiet s)))

/-- No edge raises Fatal (R131). -/
theorem afterPulse_fault (s : State) (w : Word × Word) : (afterPulse s w).fault = s.fault :=
  calc (afterPulse s w).fault
    _ = (quiet (operation (.edgeR w.1) (quiet s))).fault := (operation_keeps_latch rfl _).1
    _ = s.fault := (operation_keeps_latch (i := .edgeR w.1) rfl _).1

/-- A pulse is lost while a frame is waiting (R72). -/
theorem afterPulse_ready (w : Word × Word) {s : State} (waiting : s.ready = true) : afterPulse s w = quiet s := by
  rw [afterPulse, operation_edge_ready (edge := .edgeR w.1) rfl (s := quiet s) waiting, quiet_quiet,
    operation_edge_ready (edge := .edgeF w.2) rfl (s := quiet s) waiting]

/-- A noise pulse leaves its width as the pending half-pulse and writes no other element (R74). -/
theorem afterPulse_noise {w : Word × Word} {s : State} (unread : s.ready = false)
    (h : classify s.config (w.1 + w.2) = .noise) :
    afterPulse s w = (quiet s).withPulseClocks (w.1 + w.2) := by
  rw [afterPulse, operation_edgeR w.1 (s := quiet s) unread]
  exact operation_edgeF_noise (s := (quiet s).withPulseClocks w.1) unread h

/-- Any other pulse also updates the run (R71). -/
theorem afterPulse_class {w : Word × Word} {s : State} {c : PulseClass} (unread : s.ready = false)
    (h : classify s.config (w.1 + w.2) = .pulse c) :
    afterPulse s w = acceptPulse c ((quiet s).withPulseClocks (w.1 + w.2)) := by
  rw [afterPulse, operation_edgeR w.1 (s := quiet s) unread]
  exact operation_edgeF_pulse (s := (quiet s).withPulseClocks w.1) unread h

/-- A train at the head of the list is performed pulse by pulse, and the rest of the list is left over. -/
theorem run_pulses (pulses : List (Word × Word)) (rest : List Command) {s : State} (live : s.fault = false) :
    core.run (2 * pulses.length) (s.withIssued (pulses.flatMap pulseCommands ++ rest)) =
      .next ((pulses.foldl afterPulse s).withIssued rest) := by
  induction pulses generalizing s with
  | nil => rfl
  | cons w ws ih =>
    have live' : (operation (.edgeR w.1) (quiet s)).fault = false := (operation_keeps_latch rfl _).1.trans live
    calc core.run (2 * ws.length + 2) (s.withIssued (pulseCommands w ++ ws.flatMap pulseCommands ++ rest))
      _ = core.run (2 * ws.length) ((afterPulse s w).withIssued (ws.flatMap pulseCommands ++ rest)) := by
        rw [List.append_assoc]
        exact (run_issued live rfl _ _).trans (run_issued live' rfl _ _)
      _ = .next ((ws.foldl afterPulse (afterPulse s w)).withIssued rest) := ih ((afterPulse_fault s w).trans live)

/-- Once `ready` has risen it stays, since the rest of the train is lost (R72). -/
theorem foldl_afterPulse_ready (pulses : List (Word × Word)) {s : State} (waiting : s.ready = true) :
    (pulses.foldl afterPulse s).ready = true := by
  induction pulses generalizing s with
  | nil => exact waiting
  | cons w ws ih => exact ih (by rw [afterPulse_ready w waiting]; exact waiting)

/-- A train that ends with `ready = 0` had `ready = 0` all along. -/
theorem unread_of_foldl_afterPulse {pulses : List (Word × Word)} {s : State}
    (unread : (pulses.foldl afterPulse s).ready = false) : s.ready = false := by
  by_contra waiting
  rw [foldl_afterPulse_ready pulses (by simpa using waiting)] at unread
  cases unread

/-- The state `t` is what the run accounting of the classes `cs` makes of `s`: the class, the count and the bits shifted
into the frame buffer; the latch and the configuration are those of `s`. -/
structure Accounts (s t : State) (cs : List PulseClass) : Prop where
  last : t.lastPulseLength = (feed s.lastPulseLength s.pulseCount cs).last
  count : t.pulseCount = (feed s.lastPulseLength s.pulseCount cs).count
  frame : t.frame = (feed s.lastPulseLength s.pulseCount cs).bits.foldl shiftIn s.frame
  fault : t.fault = s.fault
  config : t.config = s.config

/-- The bit that a pulse commits, if any, is shifted into the frame buffer (R78). -/
theorem acceptPulse_frame (c : PulseClass) (s : State) :
    (acceptPulse c s).frame =
      (runUpdate s.lastPulseLength s.pulseCount c).commit.toList.foldl shiftIn s.frame := by
  rw [acceptPulse]
  cases (runUpdate s.lastPulseLength s.pulseCount c).commit <;> rfl

/-- The accounting does not look at the result ports or the pending half-pulse. -/
theorem Accounts.of_clocks {w : Word} {s t : State} {cs : List PulseClass}
    (h : Accounts ((quiet s).withPulseClocks w) t cs) : Accounts s t cs :=
  ⟨h.last, h.count, h.frame, h.fault, h.config⟩

/-- An accepted pulse is accounted for by its class, before whatever follows it. -/
theorem Accounts.cons {c : PulseClass} {s t : State} {cs : List PulseClass}
    (h : Accounts (acceptPulse c s) t cs) : Accounts s t (c :: cs) := by
  obtain ⟨hlast, hcount, hframe, hfault, hconfig⟩ := h
  simp only [acceptPulse_lastPulseLength, acceptPulse_pulseCount, acceptPulse_frame, acceptPulse_fault,
    acceptPulse_config] at hlast hcount hframe hfault hconfig
  constructor <;> simpa only [feed, runUpdate_last, List.foldl_append]

/-- Noise leaves no class (R74). -/
theorem classesOf_cons_noise {p : Params} {w : Word × Word} (h : classify p (w.1 + w.2) = .noise)
    (ws : List (Word × Word)) : classesOf p (w :: ws) = classesOf p ws := by simp [classesOf, h]

theorem classesOf_cons_pulse {p : Params} {w : Word × Word} {c : PulseClass}
    (h : classify p (w.1 + w.2) = .pulse c) (ws : List (Word × Word)) :
    classesOf p (w :: ws) = c :: classesOf p ws := by simp [classesOf, h]

/-- A train that ends with `ready = 0` is accounted for by the classes of its pulses: noise leaves the run alone, and
any other pulse is one step of the accounting. -/
theorem foldl_afterPulse_accounts {pulses : List (Word × Word)} {s : State}
    (unread : (pulses.foldl afterPulse s).ready = false) :
    Accounts s (pulses.foldl afterPulse s) (classesOf s.config pulses) := by
  induction pulses generalizing s with
  | nil => exact ⟨rfl, rfl, rfl, rfl, rfl⟩
  | cons w ws ih =>
    have unread' : s.ready = false := unread_of_foldl_afterPulse unread
    specialize ih unread
    rw [List.foldl_cons]
    cases h : classify s.config (w.1 + w.2) with
    | noise =>
      rw [afterPulse_noise unread' h] at ih ⊢
      rw [classesOf_cons_noise h]
      exact ih.of_clocks
    | pulse c =>
      rw [afterPulse_class unread' h, acceptPulse_config] at ih
      rw [afterPulse_class unread' h, classesOf_cons_pulse h]
      exact ih.cons.of_clocks

/-- Settles O25: the train runs pulse by pulse, and each pulse is one step of the accounting or none, by induction on
the train. -/
theorem pulseTrainRefinesRunAccounting : Obligations.PulseTrainRefinesRunAccounting := by
  intro s pulses rest live _ issued
  refine ⟨(pulses.foldl afterPulse s).withIssued rest, ?_, rfl, fun unread => ?_⟩
  · rw [run_withIssued_self issued]
    exact run_pulses pulses rest live
  · obtain ⟨hlast, hcount, hframe, hfault, hconfig⟩ := foldl_afterPulse_accounts unread
    exact ⟨hlast, hcount, hframe, hfault.trans live, hconfig⟩

end Sys2Proof.Machine
end

section
/-! SUPPORT. The consumer operations of a live block (R90, R91): the three cases of READ, and RESET_STATE. -/

namespace Sys2Proof.Machine

open Sys2Proof.Safety

/-! ### READ -/

/-- R131 gives READ its cause where the size does not suffice. -/
theorem fatalCauseOf_read_small {n : Word} (small : n.toNat < 4) : fatalCauseOf (.read n) = .readSize := if_pos small

/-- A size that does not suffice is fatal whether or not a frame is waiting (R90, R133). -/
theorem exec_read_small {n : Word} {s : State} (live : s.fault = false) (small : n.toNat < 4) :
    exec (.read n) s = .next { s with out := {}, fault := true, faultCause := .readSize } := by
  have cause := fatalCauseOf_read_small small
  rw [exec_live _ live, operation_fatal (by simp [cause]), cause]
  rfl

/-- A waiting frame is handed over, and `ready` cleared (R90). -/
theorem exec_read_ready {n : Word} {s : State} (live : s.fault = false) (size : 4 ≤ n.toNat)
    (waiting : s.ready = true) :
    exec (.read n) s = .next { s with ready := false, out := { ok := some true, frameOut := some s.frame } } := by
  rw [exec_live _ live, operation_read size, readFrame_ready (s := quiet s) waiting]
  rfl

/-- With no frame waiting only the answer is driven (R90). -/
theorem exec_read_empty {n : Word} {s : State} (live : s.fault = false) (size : 4 ≤ n.toNat)
    (unread : s.ready = false) : exec (.read n) s = .next { s with out := { ok := some false } } := by
  rw [exec_live _ live, operation_read size, readFrame_empty (s := quiet s) unread]
  rfl

/-- Settles O26: a size that is too small, and the two values of `ready` where it suffices. -/
theorem readHandsOverTheFrame : Obligations.ReadHandsOverTheFrame := fun _ _ live =>
  ⟨exec_read_small live, exec_read_ready live, exec_read_empty live⟩

/-- A READ whose size suffices leaves no frame waiting and raises no Fatal (R90). -/
theorem exec_read_leaves_unread {n : Word} {s t : State} (live : s.fault = false) (size : 4 ≤ n.toNat)
    (h : exec (.read n) s = .next t) : t.fault = false ∧ t.ready = false := by
  cases hr : s.ready with
  | true =>
    rw [exec_read_ready live size hr] at h
    cases h
    exact ⟨live, rfl⟩
  | false =>
    rw [exec_read_empty live size hr] at h
    cases h
    exact ⟨live, hr⟩

/-- Settles O27: after the first READ no frame is waiting, so the second and every further one finds none. -/
theorem secondReadFindsNothing : Obligations.SecondReadFindsNothing := by
  intro s t m n live hm hn h
  obtain ⟨live', unread⟩ := exec_read_leaves_unread live hm h
  exact ⟨{ t with out := { ok := some false } }, exec_read_empty live' hn unread, rfl, rfl,
    exec_read_empty (s := { t with out := _ }) live' hn unread⟩

/-! ### RESET_STATE -/

/-- RESET_STATE on a live block (R91). -/
theorem exec_resetState {s : State} (live : s.fault = false) : exec .resetState s = .next (clearRun (quiet s)) :=
  exec_live .resetState live

/-- A second RESET_STATE finds nothing left to clear (R91). -/
theorem clearRun_quiet_idem (s : State) : clearRun (quiet (clearRun (quiet s))) = clearRun (quiet s) := rfl

/-- Settles O28: the word is put together from its fields, the written elements are those of `clearRun`, and clearing
them twice is the same as once. -/
theorem resetStateClearsFourElements : Obligations.ResetStateClearsFourElements := by
  refine fun s live => ⟨by simp [encodeCommand, wordOf_toNat], rfl, ⟨{}, exec_resetState live⟩, fun t h => ?_⟩
  rw [exec_resetState live] at h
  cases h
  rw [exec_resetState (s := clearRun (quiet s)) live, clearRun_quiet_idem]

end Sys2Proof.Machine
end

section
/-! SUPPORT. The codec operations of a live block (R100 to R105): what they leave unchanged, what DECODE collects, and
what CAN_DECODE tests. -/

namespace Sys2Proof.Machine

open Sys2Proof.Safety

/-! ### The operation as a whole -/

/-- A codec operation without a fatal cause, on a live block, drives its results and writes no state (R100). -/
theorem exec_codec {i : Instr} {s : State} (codec : isCodec i = true) (safe : fatalCauseOf i = .none)
    (live : s.fault = false) : exec i s = .next { s with out := codecResults s.config i } := by
  rw [exec_live i live, operation_codec codec safe]
  rfl

/-- An operation with a fatal cause, on a live block, writes the latch and drives nothing (R133). -/
theorem exec_fatal {i : Instr} {s : State} (fatal : fatalCauseOf i ≠ .none) (live : s.fault = false) :
    exec i s = .next { s with out := {}, fault := true, faultCause := fatalCauseOf i } := by
  rw [exec_live i live, operation_fatal fatal]
  rfl

/-- Settles O30: the word is put together from its fields, and ENC_SIZE is a codec operation without a precondition. -/
theorem encSizeIsSixteen : Obligations.EncSizeIsSixteen := fun _ live =>
  ⟨by simp [encodeCommand, wordOf_toNat], codecResults _ .encSize, rfl, exec_codec rfl rfl live⟩

/-- Settles O31: the word is put together from its fields, and DEC_SIZE is a codec operation without a precondition. -/
theorem decSizeIsFive : Obligations.DecSizeIsFive := fun _ live =>
  ⟨by simp [encodeCommand, wordOf_toNat], codecResults _ .decSize, rfl, exec_codec rfl rfl live⟩

/-- Settles O32: with a fatal cause only the latch is written, without one only the results. -/
theorem codecWritesNoBlockState : Obligations.CodecWritesNoBlockState := by
  refine fun i s codec live => ⟨codecResults s.config i, ?_⟩
  by_cases safe : fatalCauseOf i = .none
  · rw [if_pos safe, exec_codec codec safe live]
  · rw [if_neg safe, exec_fatal safe live]

/-! ### What DECODE collects -/

/-- One pair of DECODE's loop on an unbounded number: a pair of unequal raw bits appends its first bit, a pair of equal
ones nothing (R115). -/
def appendPair (acc : Nat) (pair : BitVec 2) : Nat :=
  if pair.getLsbD 1 != pair.getLsbD 0 then 2 * acc + (pair.getLsbD 1).toNat else acc

/-- A pair adds at most one bit. -/
theorem appendPair_lt {acc n : Nat} (h : acc < 2 ^ n) (pair : BitVec 2) : appendPair acc pair < 2 ^ (n + 1) := by
  have hbit := (pair.getLsbD 1).toNat_le
  rw [appendPair]
  split <;> omega

/-- The 64-bit accumulator holds the number as long as its top bit is free. -/
theorem acceptPair_toNat {acc : BitVec 64} (room : acc.toNat < 2 ^ 63) (pair : BitVec 2) :
    (acceptPair acc pair).toNat = appendPair acc.toNat pair := by
  have shifted : (acc * 2#64).toNat = 2 * acc.toNat := by
    rw [BitVec.toNat_mul, BitVec.toNat_ofNat]; omega
  have extended : (acc * 2#64 + 1#64).toNat = 2 * acc.toNat + 1 := by
    rw [BitVec.toNat_add, shifted, BitVec.toNat_ofNat]; omega
  obtain rfl | rfl | rfl | rfl : pair = 0#2 ∨ pair = 1#2 ∨ pair = 2#2 ∨ pair = 3#2 := by revert pair; decide
  · rfl
  · exact shifted
  · exact extended
  · rfl

/-- DECODE's loop, pair by pair: the accumulator never overflows while the pairs are few enough, and gains at most one
bit for each. -/
theorem foldl_acceptPair_toNat {n : Nat} (pairs : List (BitVec 2)) {acc : BitVec 64} (hacc : acc.toNat < 2 ^ n)
    (room : n + pairs.length ≤ 64) :
    (pairs.foldl acceptPair acc).toNat = pairs.foldl appendPair acc.toNat ∧
      (pairs.foldl acceptPair acc).toNat < 2 ^ (n + pairs.length) := by
  induction pairs generalizing n acc with
  | nil => exact ⟨rfl, hacc⟩
  | cons pair pairs ih =>
    rw [List.length_cons] at room ⊢
    have free : acc.toNat < 2 ^ 63 := hacc.trans_le (Nat.pow_le_pow_right (by decide) (by omega))
    have step := acceptPair_toNat free pair
    obtain ⟨value, bound⟩ := ih (step ▸ appendPair_lt hacc pair) (by omega)
    rw [List.foldl_cons, List.foldl_cons, show n + (pairs.length + 1) = n + 1 + pairs.length by omega]
    exact ⟨by rw [value, step], bound⟩

/-- The `k`-th pair of DECODE's loop stands at stream positions `54 + 2k` and `55 + 2k` (R115). -/
def streamPair (S : Frame) (k : Fin 37) : BitVec 2 := S.extractLsb' (2 * (36 - k.val)) 2

@[simp] theorem streamPair_first (S : Frame) (k : Fin 37) :
    (streamPair S k).getLsbD 1 = streamBit S ⟨54 + 2 * k.val, by omega⟩ := by
  have hplace : 2 * (36 - k.val) + 1 = 127 - (54 + 2 * k.val) := by omega
  simp [streamPair, streamBit, hplace]

@[simp] theorem streamPair_second (S : Frame) (k : Fin 37) :
    (streamPair S k).getLsbD 0 = streamBit S ⟨55 + 2 * k.val, by omega⟩ := by
  have hplace : 2 * (36 - k.val) = 127 - (55 + 2 * k.val) := by omega
  simp [streamPair, streamBit, hplace]

theorem countDown_eq_map_finRange : countDown 36 = (List.finRange 37).map fun k => 36 - k.val := by decide

/-- DECODE's pairs in stream order (R115). -/
theorem valuePairs_eq_streamPair (S : Frame) : valuePairs S = (List.finRange 37).map (streamPair S) := by
  rw [valuePairs_eq, countDown_eq_map_finRange, List.map_map]
  rfl

/-- DECODE's result: the number made of the valid pairs without its last bit; 36 bits are left (R115, D14). -/
theorem decodeFrame_toNat (S : Frame) :
    (decodeFrame S).toNat = (valuePairs S).foldl appendPair 0 / 2 ∧ (decodeFrame S).toNat < 2 ^ 36 := by
  have len : (valuePairs S).length = 37 := by rw [valuePairs_eq_streamPair, List.length_map, List.length_finRange]
  obtain ⟨value, bound⟩ := foldl_acceptPair_toNat (n := 0) (valuePairs S) (acc := 0#64) (by decide)
    (by rw [len]; decide)
  rw [len] at bound
  have halved : (decodeFrame S).toNat = ((valuePairs S).foldl acceptPair 0#64).toNat / 2 := by
    rw [decodeFrame, BitVec.toNat_setWidth, BitVec.toNat_udiv]
    exact Nat.mod_eq_of_lt (((Nat.div_le_self _ _).trans_lt bound).trans (by decide))
  exact ⟨by rw [halved, value]; rfl, by rw [halved]; omega⟩

/-- Settles O39: DECODE's sizes suffice, so it drives `decodeFrame`, whose loop skips the pairs that the filter leaves
out. -/
theorem decodeCollectsTheValidPairs : Obligations.DecodeCollectsTheValidPairs := by
  intro s n m S live hn hm
  have safe : fatalCauseOf (.decode n m S) = .none := (fatalCauseOf_decode_eq_none n m S).2 ⟨hn, hm⟩
  obtain ⟨value, bound⟩ := decodeFrame_toNat S
  refine ⟨decodeFrame S, exec_codec rfl safe live, ?_, bound⟩
  rw [value, valuePairs_eq_streamPair, List.foldl_map, List.foldl_filter]
  simp only [appendPair, streamPair_first, streamPair_second]

/-! ### What CAN_DECODE tests -/

/-- Reading back pairs put together with the first bit in the lowest pair: pair `k` is bit `k` above its complement
(R111). -/
theorem testBit_foldr_manchesterPair (bits : List Bool) {k : Nat} (hk : k < bits.length) :
    (bits.foldr (fun b acc => acc * 4 + (manchesterPair b).toNat) 0).testBit (2 * k + 1) = bits[k] ∧
      (bits.foldr (fun b acc => acc * 4 + (manchesterPair b).toNat) 0).testBit (2 * k) = !bits[k] := by
  have testBit_cons (b : Bool) (acc j : Nat) : (acc * 4 + (manchesterPair b).toNat).testBit j =
      if j < 2 then (manchesterPair b).toNat.testBit j else acc.testBit (j - 2) := by
    rw [Nat.mul_comm]
    exact Nat.testBit_two_pow_mul_add acc (manchesterPair b).isLt j
  induction bits generalizing k with
  | nil => exact absurd hk (Nat.not_lt_zero k)
  | cons b bits ih =>
    rw [List.foldr_cons, testBit_cons, testBit_cons]
    cases k with
    | zero => cases b <;> exact ⟨rfl, rfl⟩
    | succ k => simpa [Nat.mul_add] using ih (Nat.lt_of_succ_lt_succ hk)

theorem bitsMsbFirst_reverse_getElem {n : Nat} (v : BitVec n) {k : Nat} (hk : k < (bitsMsbFirst v).reverse.length) :
    (bitsMsbFirst v).reverse[k] = v.getLsbD k := by
  have hk' : k < n := by simpa using hk
  rw [List.getElem_reverse, bitsMsbFirst_getElem, bitsMsbFirst_length]
  congr 1
  omega

/-- In `Mn(v)` the pair of logical bit `k` is the bit above its complement (R111). -/
theorem manchester_getLsbD {n : Nat} (v : BitVec n) {k : Nat} (hk : k < n) :
    (manchester v).getLsbD (2 * k + 1) = v.getLsbD k ∧ (manchester v).getLsbD (2 * k) = !v.getLsbD k := by
  have pairs := testBit_foldr_manchesterPair (bitsMsbFirst v).reverse (k := k) (by simpa using hk)
  rw [bitsMsbFirst_reverse_getElem, List.foldr_reverse] at pairs
  have hfirst : 2 * k + 1 < 2 * n := by omega
  have hsecond : 2 * k < 2 * n := by omega
  simpa only [manchester, BitVec.getLsbD_ofNat, hfirst, hsecond, decide_true, Bool.true_and] using pairs

/-- A word is `Mn(v)` exactly if each of its pairs is the bit above its complement (R111). -/
theorem eq_manchester_iff {n : Nat} {x : BitVec (2 * n)} {v : BitVec n} :
    x = manchester v ↔ ∀ k : Fin n, x.getLsbD (2 * k + 1) = v.getLsbD k ∧ x.getLsbD (2 * k) = !v.getLsbD k := by
  constructor
  · rintro rfl k
    exact manchester_getLsbD v k.isLt
  · intro pairs
    refine BitVec.eq_of_getLsbD_eq fun i hi => ?_
    obtain ⟨first, second⟩ := pairs ⟨i / 2, by omega⟩
    obtain ⟨first', second'⟩ := manchester_getLsbD v (k := i / 2) (by omega)
    rcases Nat.mod_two_eq_zero_or_one i with even | odd
    · rw [show i = 2 * (i / 2) by omega, second, second']
    · rw [show i = 2 * (i / 2) + 1 by omega, first, first']

/-- A slice of a frame has a value exactly if the stream positions it covers hold the value's bits, most significant
first (R31). -/
theorem extractLsb'_eq_iff_streamBit {S : Frame} {first len : Nat} (fits : first + len ≤ 128) {v : BitVec len} :
    S.extractLsb' (128 - (first + len)) len = v ↔
      ∀ j : Fin len, streamBit S ⟨first + j.val, by omega⟩ = v.getMsbD j := by
  have bit (j : Fin len) : (S.extractLsb' (128 - (first + len)) len).getMsbD j =
      streamBit S ⟨first + j.val, by omega⟩ := by
    have hplace : 128 - (first + len) + (len - 1 - j.val) = 127 - (first + j.val) := by omega
    have hin : len - 1 - j.val < len := by omega
    simp only [BitVec.getMsbD, j.isLt, decide_true, Bool.true_and, BitVec.getLsbD_extractLsb', hin, hplace, streamBit]
  constructor
  · rintro rfl j
    exact (bit j).symm
  · exact fun h => BitVec.eq_of_getMsbD_eq fun j hj => (bit ⟨j, hj⟩).trans (h ⟨j, hj⟩)

/-- The OEM field holds `M7(v)` exactly if each pair of stream positions from 18 on is a bit of `v` and its complement,
bit 6 first (R110, R111, R116). -/
theorem oemField_eq_iff {S : Frame} {v : BitVec 7} :
    S.extractLsb' 96 14 = manchester v ↔
      ∀ k : Fin 7, streamBit S ⟨18 + 2 * (6 - k.val), by omega⟩ = v.getLsbD k ∧
        streamBit S ⟨19 + 2 * (6 - k.val), by omega⟩ = !v.getLsbD k := by
  refine (eq_manchester_iff (n := 7)).trans (forall_congr' fun k => ?_)
  have hfirst : 127 - (18 + 2 * (6 - k.val)) = 96 + (2 * k.val + 1) := by omega
  have hsecond : 127 - (19 + 2 * (6 - k.val)) = 96 + 2 * k.val := by omega
  have first_in : 2 * k.val + 1 < 14 := by omega
  have second_in : 2 * k.val < 14 := by omega
  simp only [streamBit, hfirst, hsecond, BitVec.getLsbD_extractLsb', first_in, second_in, decide_true, Bool.true_and]

/-- The detector by stream position: the preamble at 10 to 17 and the Manchester-coded OEM constant at 18 to 31
(R116). -/
theorem canDecode_iff (p : Params) (S : Frame) :
    canDecode p S = true ↔
      (∀ j : Fin 8, streamBit S ⟨10 + j.val, by omega⟩ = preamble.getMsbD j) ∧
        ∀ k : Fin 7, streamBit S ⟨18 + 2 * (6 - k.val), by omega⟩ = p.oemCode.getLsbD k ∧
          streamBit S ⟨19 + 2 * (6 - k.val), by omega⟩ = !p.oemCode.getLsbD k := by
  rw [canDecode_eq, Bool.and_eq_true, beq_iff_eq, beq_iff_eq, oemField_eq_iff]
  exact and_congr_left' (extractLsb'_eq_iff_streamBit (first := 10) (by decide))

/-- CAN_DECODE's length test in numbers (R104). -/
theorem wireTooShort_iff (n : Word) : wireTooShort n = true ↔ n.toNat < 16 := by
  rw [wireTooShort, decide_eq_true_eq, encodedSize]

/-- CAN_DECODE's answer: the detector on a length that is not too short (R104). -/
theorem canDecodeAnswer_iff (p : Params) (n : Word) (S : Frame) :
    canDecodeAnswer p n S = true ↔ 16 ≤ n.toNat ∧ canDecode p S = true := by
  by_cases short : n.toNat < 16
  · simp [canDecodeAnswer, wireTooShort_iff, short]
  · simp [canDecodeAnswer, wireTooShort_iff, short, Nat.le_of_not_lt short]

/-- Settles O41: CAN_DECODE has no fatal cause and drives its answer, which is read off by stream position. -/
theorem canDecodeTestsPreambleAndOem : Obligations.CanDecodeTestsPreambleAndOem := fun s n S live =>
  ⟨canDecodeAnswer s.config n S, exec_codec rfl rfl live,
    (canDecodeAnswer_iff s.config n S).trans (and_congr_right' (canDecode_iff s.config S))⟩

end Sys2Proof.Machine
end

section
/-! SUPPORT. The frame that ENCODE builds (R110 to R114), as an integer and by stream position, and what the detector
and DECODE make of it (R115, R117). -/

namespace Sys2Proof.Machine

open Sys2Proof.Safety

/-! ### Manchester pairs -/

/-- DECODE's loop appends the bit that a valid pair stands for (R115). -/
theorem acceptPair_manchesterPair (acc : BitVec 64) (b : Bool) :
    acceptPair acc (manchesterPair b) = acc * 2#64 + BitVec.ofNat 64 b.toNat := by
  cases b
  · exact (BitVec.add_zero _).symm
  · rfl

/-- Settles O34: the pairs of `Mn(v)` by position, and the four pairs in DECODE's loop. -/
theorem manchesterPairsAreBitAndComplement : Obligations.ManchesterPairsAreBitAndComplement :=
  ⟨fun _ v _ hk => manchester_getLsbD v hk, rfl, rfl, fun acc => ⟨acceptPair_manchesterPair acc, rfl, rfl⟩⟩

/-- A single pair is the Manchester coding of a single bit (R111). -/
theorem manchesterPair_eq_manchester (b : Bool) : manchesterPair b = manchester (BitVec.ofBool b) := by
  cases b <;> rfl

/-- A pair is the Manchester coding of its first bit if its second is the complement (R111). -/
theorem eq_manchesterPair {pair : BitVec 2} {b : Bool} (first : pair.getLsbD 1 = b) (second : pair.getLsbD 0 = !b) :
    pair = manchesterPair b := by
  rw [manchesterPair_eq_manchester]
  refine (eq_manchester_iff (n := 1)).2 fun k => ?_
  rw [Subsingleton.elim k 0]
  simpa using ⟨first, second⟩

/-! ### The parity bits -/

theorem bitsMsbFirst_reverse {n : Nat} (v : BitVec n) :
    (bitsMsbFirst v).reverse = (List.range n).map v.getLsbD :=
  List.ext_getElem (by simp) fun k hk _ => by simp [bitsMsbFirst_reverse_getElem v hk]

/-- The parity of a slice is that of the number of ones in it (R113). -/
theorem xorReduce_extractLsb'_toNat {n : Nat} (v : BitVec n) (start len : Nat) :
    (xorReduce (v.extractLsb' start len)).toNat =
      ((List.range len).filter fun k => v.getLsbD (start + k)).length % 2 := by
  have bits : (bitsMsbFirst (v.extractLsb' start len)).reverse =
      (List.range len).map fun k => v.getLsbD (start + k) := by
    rw [bitsMsbFirst_reverse]
    refine List.map_congr_left fun k hk => ?_
    simp [List.mem_range.1 hk]
  rw [xorReduce, foldl_xor_toNat, ← List.count_reverse, bits, List.count_eq_countP, List.countP_map,
    List.countP_eq_length_filter]
  simp [Function.comp_def]

theorem evenParity_toNat (v : BitVec 35) :
    (evenParity v).toNat = ((List.range 18).filter fun k => v.getLsbD (17 + k)).length % 2 :=
  xorReduce_extractLsb'_toNat v 17 18

theorem oddParity_toNat (v : BitVec 35) :
    (oddParity v).toNat = 1 - ((List.range 18).filter fun k => v.getLsbD k).length % 2 := by
  have low := xorReduce_extractLsb'_toNat v 0 18
  simp only [Nat.zero_add] at low
  rw [← low, oddParity]
  cases xorReduce (v.extractLsb' 0 18) <;> rfl

/-- Settles O35: a parity bit is the parity of the ones it covers, complemented for `op`. -/
theorem parityBitsCompleteTheCounts : Obligations.ParityBitsCompleteTheCounts := by
  intro v
  have even := evenParity_toNat v
  have odd := oddParity_toNat v
  exact ⟨by omega, by omega, rfl, rfl⟩

/-! ### The encoded frame as an integer -/

theorem toNat_append_eq_add {m n : Nat} (x : BitVec m) (y : BitVec n) :
    (x ++ y).toNat = x.toNat * 2 ^ n + y.toNat := by
  rw [BitVec.toNat_append, ← Nat.shiftLeft_add_eq_or_of_lt y.isLt, Nat.shiftLeft_eq]

/-- The value of a payload is its upper 32 bits (R112). -/
theorem value32_eq (P : Payload) : value32 P = P.extractLsb' 8 32 := by
  calc P.extractLsb' 32 8 ++ P.extractLsb' 24 8 ++ P.extractLsb' 16 8 ++ P.extractLsb' 8 8
      = P.extractLsb' 8 32 := by
        rw [BitVec.extractLsb'_append_extractLsb'_eq_extractLsb' (start₁ := 24) (len₁ := 8) rfl,
          BitVec.extractLsb'_append_extractLsb'_eq_extractLsb' (start₁ := 16) (len₁ := 8) rfl,
          BitVec.extractLsb'_append_extractLsb'_eq_extractLsb' (start₁ := 8) (len₁ := 8) rfl]

theorem value35_toNat (P : Payload) : (value35 P).toNat = P.toNat / 2 ^ 8 * 8 := by
  have := P.isLt
  rw [value35, toNat_append_eq_add, value32_eq, BitVec.extractLsb'_toNat, Nat.shiftRight_eq_div_pow,
    BitVec.toNat_ofNat]
  omega

/-- The sum of R114. -/
theorem encodeFrame_toNat (p : Params) (P : Payload) :
    (encodeFrame p P).toNat = 0x1D * 2 ^ 110 + (manchester p.oemCode).toNat * 2 ^ 96 +
      (manchester p.formatCode).toNat * 2 ^ 74 + (manchesterPair (evenParity (value35 P))).toNat * 2 ^ 72 +
      (manchester (value35 P)).toNat * 4 + (manchesterPair (oddParity (value35 P))).toNat := by
  simp only [encodeFrame, toNat_append_eq_add, preamble, BitVec.toNat_ofNat]
  omega

/-- Settles O37: ENCODE's sizes suffice, so it drives `encodeFrame`. -/
theorem encodeDrivesTheFrame : Obligations.EncodeDrivesTheFrame := fun s n m P live hn hm =>
  ⟨encodeFrame s.config P, value35 P, exec_codec rfl ((fatalCauseOf_encode_eq_none n m P).2 ⟨hn, hm⟩) live,
    value35_toNat P, encodeFrame_toNat s.config P⟩

/-! ### The encoded frame by stream position -/

/-- A field holds `Mn(v)` exactly if each of its pairs of stream positions is a bit of `v` and its complement, the most
significant first (R110, R111). -/
theorem manchesterField_eq_iff {S : Frame} {first n : Nat} (fits : first + 2 * n ≤ 128) {v : BitVec n} :
    S.extractLsb' (128 - (first + 2 * n)) (2 * n) = manchester v ↔
      ∀ k : Fin n, streamBit S ⟨first + 2 * (n - 1 - k.val), by omega⟩ = v.getLsbD k ∧
        streamBit S ⟨first + 1 + 2 * (n - 1 - k.val), by omega⟩ = !v.getLsbD k := by
  refine eq_manchester_iff.trans (forall_congr' fun k => ?_)
  have hfirst : 127 - (first + 2 * (n - 1 - k.val)) = 128 - (first + 2 * n) + (2 * k.val + 1) := by omega
  have hsecond : 127 - (first + 1 + 2 * (n - 1 - k.val)) = 128 - (first + 2 * n) + 2 * k.val := by omega
  have first_in : 2 * k.val + 1 < 2 * n := by omega
  have second_in : 2 * k.val < 2 * n := by omega
  simp only [streamBit, hfirst, hsecond, BitVec.getLsbD_extractLsb', first_in, second_in, decide_true, Bool.true_and]

/-- A field of one pair holds a bit and its complement (R110, R111). -/
theorem streamBit_of_manchesterPair {S : Frame} {first : Nat} (fits : first + 2 ≤ 128) {b : Bool}
    (field : S.extractLsb' (128 - (first + 2)) 2 = manchesterPair b) :
    streamBit S ⟨first, by omega⟩ = b ∧ streamBit S ⟨first + 1, by omega⟩ = !b := by
  rw [manchesterPair_eq_manchester] at field
  simpa using (manchesterField_eq_iff (n := 1) fits).1 field 0

/-- The fields of a frame are those of R110 for the parameters `p` and the 35-bit value `v`, each cut out at its
place. -/
structure HasFields (p : Params) (v : BitVec 35) (S : Frame) : Prop where
  slack : S.extractLsb' 118 10 = 0#10
  preamble : S.extractLsb' 110 8 = preamble
  oem : S.extractLsb' 96 14 = manchester p.oemCode
  format : S.extractLsb' 74 22 = manchester p.formatCode
  even : S.extractLsb' 72 2 = manchesterPair (evenParity v)
  value : S.extractLsb' 2 70 = manchester v
  odd : S.extractLsb' 0 2 = manchesterPair (oddParity v)

/-- No field of the sum of R114 reaches into the next, so division gives each back. -/
theorem encodeFrame_hasFields (p : Params) (P : Payload) : HasFields p (value35 P) (encodeFrame p P) := by
  have sum := encodeFrame_toNat p P
  have oem := (manchester p.oemCode).isLt
  have format := (manchester p.formatCode).isLt
  have even := (manchesterPair (evenParity (value35 P))).isLt
  have value := (manchester (value35 P)).isLt
  have odd := (manchesterPair (oddParity (value35 P))).isLt
  have hpreamble : preamble.toNat = 0x1D := rfl
  constructor <;> refine BitVec.eq_of_toNat_eq ?_ <;>
    rw [BitVec.extractLsb'_toNat, Nat.shiftRight_eq_div_pow, sum]
  case slack => rw [BitVec.toNat_ofNat]; omega
  all_goals omega

/-- Settles O38: each field is read off its place, bit by bit. -/
theorem encodedFieldsStandInPlace : Obligations.EncodedFieldsStandInPlace := by
  intro p P S v
  obtain ⟨slack, preamble, oem, format, even, value, odd⟩ := encodeFrame_hasFields p P
  obtain ⟨even, even'⟩ := streamBit_of_manchesterPair (first := 54) (by decide) even
  obtain ⟨odd, odd'⟩ := streamBit_of_manchesterPair (first := 126) (by decide) odd
  refine ⟨fun i hi => ?_, (extractLsb'_eq_iff_streamBit (first := 10) (by decide)).1 preamble,
    (manchesterField_eq_iff (first := 18) (by decide)).1 oem,
    (manchesterField_eq_iff (first := 32) (by decide)).1 format,
    even, even', (manchesterField_eq_iff (first := 56) (by decide)).1 value, odd, odd'⟩
  simpa using (extractLsb'_eq_iff_streamBit (first := 0) (by decide)).1 slack ⟨i, hi⟩

/-- Settles O43: the detector tests the preamble and the OEM field, which stand in place. -/
theorem encodedFrameIsAlwaysDetected : Obligations.EncodedFrameIsAlwaysDetected := by
  intro p P
  obtain ⟨-, preamble, oem, -⟩ := encodedFieldsStandInPlace p P
  exact (canDecode_iff p (encodeFrame p P)).2 ⟨preamble, oem⟩

/-! ### Valid pairs in DECODE's loop -/

/-- A valid pair appends the bit it stands for (R115). -/
@[simp] theorem appendPair_manchesterPair (acc : Nat) (b : Bool) :
    appendPair acc (manchesterPair b) = 2 * acc + b.toNat := by
  cases b <;> rfl

/-- The pairs are the Manchester coding of the low bits of `x`, as many as there are pairs, the most significant
first. -/
def Spell (pairs : List (BitVec 2)) (x : Nat) : Prop :=
  ∀ (i : Nat) (hi : i < pairs.length), pairs[i] = manchesterPair (x.testBit (pairs.length - 1 - i))

theorem spell_cons {pair : BitVec 2} {pairs : List (BitVec 2)} {x : Nat} :
    Spell (pair :: pairs) x ↔ pair = manchesterPair (x.testBit pairs.length) ∧ Spell pairs x := by
  constructor
  · refine fun h => ⟨h 0 (Nat.succ_pos _), fun i hi => ?_⟩
    have := h (i + 1) (Nat.succ_lt_succ hi)
    simpa [Nat.sub_sub, Nat.add_comm] using this
  · rintro ⟨first, rest⟩ (_ | i) hi
    · exact first
    · have := rest i (Nat.lt_of_succ_lt_succ hi)
      simpa [Nat.sub_sub, Nat.add_comm] using this

/-- DECODE's loop on valid pairs only appends the bits that they spell (R115). -/
theorem foldl_appendPair_of_spell {pairs : List (BitVec 2)} {x : Nat} (h : Spell pairs x) (acc : Nat) :
    pairs.foldl appendPair acc = acc * 2 ^ pairs.length + x % 2 ^ pairs.length := by
  induction pairs generalizing acc with
  | nil => simp [Nat.mod_one]
  | cons pair pairs ih =>
    obtain ⟨rfl, rest⟩ := spell_cons.1 h
    rw [List.foldl_cons, ih rest, appendPair_manchesterPair, List.length_cons, Nat.mod_pow_succ, ← Nat.toNat_testBit]
    ring

/-- An invalid pair appends nothing (R115). -/
theorem appendPair_invalid {pair : BitVec 2} (invalid : pair.getLsbD 1 = pair.getLsbD 0) (acc : Nat) :
    appendPair acc pair = acc := by
  rw [appendPair, invalid, bne_self_eq_false]
  rfl

@[simp] theorem valuePairs_length (S : Frame) : (valuePairs S).length = 37 := by
  rw [valuePairs_eq_streamPair, List.length_map, List.length_finRange]

theorem valuePairs_getElem (S : Frame) {k : Nat} (hk : k < 37) :
    (valuePairs S)[k]'(by simpa using hk) = streamPair S ⟨k, hk⟩ := by
  simp [valuePairs_eq_streamPair]

/-! ### DECODE of an encoded frame -/

/-- Manchester coding goes bit by bit: the coding of a concatenation is that of its parts (R111). -/
theorem manchester_append {m n : Nat} (x : BitVec m) (y : BitVec n) :
    (manchester x ++ manchester y).cast (by omega) = manchester (x ++ y) := by
  refine eq_manchester_iff.2 fun k => ?_
  simp only [BitVec.getLsbD_cast, BitVec.getLsbD_append]
  by_cases low : k.val < n
  · simpa [low, show 2 * k.val + 1 < 2 * n by omega] using manchester_getLsbD y low
  · have high := manchester_getLsbD x (k := k.val - n) (by omega)
    simpa [low, show ¬ 2 * k.val + 1 < 2 * n by omega, show 2 * k.val + 1 - 2 * n = 2 * (k.val - n) + 1 by omega,
      show 2 * k.val - 2 * n = 2 * (k.val - n) by omega] using high

/-- The 37 logical bits from stream position 54 on: the value between its parity bits (R110). -/
def parityFramed (v : BitVec 35) : BitVec 37 := BitVec.ofBool (evenParity v) ++ v ++ BitVec.ofBool (oddParity v)

theorem parityFramed_toNat (v : BitVec 35) :
    (parityFramed v).toNat = 2 * ((evenParity v).toNat * 2 ^ 35 + v.toNat) + (oddParity v).toNat := by
  rw [parityFramed, toNat_append_eq_add, toNat_append_eq_add, BitVec.toNat_ofBool, BitVec.toNat_ofBool]
  omega

theorem encodeFrame_parityFramed (p : Params) (P : Payload) :
    (encodeFrame p P).extractLsb' 0 74 = manchester (parityFramed (value35 P)) := by
  obtain ⟨-, -, -, -, even, value, odd⟩ := encodeFrame_hasFields p P
  calc (encodeFrame p P).extractLsb' 0 74
      = (encodeFrame p P).extractLsb' 72 2 ++ (encodeFrame p P).extractLsb' 2 70 ++
          (encodeFrame p P).extractLsb' 0 2 := by
        rw [BitVec.extractLsb'_append_extractLsb'_eq_extractLsb' (start₁ := 2) (len₁ := 70) rfl,
          BitVec.extractLsb'_append_extractLsb'_eq_extractLsb' (start₁ := 0) (len₁ := 2) rfl]
    _ = manchester (parityFramed (value35 P)) := by
        rw [even, value, odd, manchesterPair_eq_manchester, manchesterPair_eq_manchester, parityFramed,
          ← manchester_append, ← manchester_append]
        rfl

/-- If the positions from 54 on hold the Manchester coding of a number, DECODE's pairs spell it (R115). -/
theorem spell_valuePairs {S : Frame} {x : BitVec 37} (field : S.extractLsb' 0 74 = manchester x) :
    Spell (valuePairs S) x.toNat := by
  intro k hk
  have hk' : k < 37 := by simpa using hk
  obtain ⟨first, second⟩ :=
    (manchesterField_eq_iff (first := 54) (n := 37) (by decide)).1 field ⟨36 - k, by omega⟩
  have back : 37 - 1 - (36 - k) = k := by omega
  simp only [back] at first second
  simp only [valuePairs_getElem S hk', valuePairs_length, BitVec.testBit_toNat]
  exact eq_manchesterPair ((streamPair_first S _).trans first) ((streamPair_second S _).trans second)

/-- DECODE of an encoded frame is the value below its even parity bit; the odd parity bit is the bit that is dropped
(R115, R117). -/
theorem decodeFrame_encodeFrame_toNat (p : Params) (P : Payload) :
    (decodeFrame (encodeFrame p P)).toNat = (evenParity (value35 P)).toNat * 2 ^ 35 + (value35 P).toNat := by
  have hodd := (oddParity (value35 P)).toNat_le
  rw [(decodeFrame_toNat _).1, foldl_appendPair_of_spell (spell_valuePairs (encodeFrame_parityFramed p P)),
    valuePairs_length, Nat.mod_eq_of_lt (parityFramed _).isLt, parityFramed_toNat]
  omega

/-- Settles O44: DECODE does not read the slack, and the value comes back below the even parity bit. -/
theorem decodeRecoversTheEncodedValue : Obligations.DecodeRecoversTheEncodedValue := by
  intro p P S same
  have payload := P.isLt
  have pairs : valuePairs S = valuePairs (encodeFrame p P) := valuePairs_congr fun i hi => same i (by omega)
  have value : (decodeFrame S).toNat = (evenParity (value35 P)).toNat * 2 ^ 35 + P.toNat / 2 ^ 8 * 8 := by
    rw [decodeFrame, pairs, ← value35_toNat]
    exact decodeFrame_encodeFrame_toNat p P
  exact ⟨value, by omega⟩

/-! ### DECODE of a frame with one invalid pair -/

/-- One invalid pair among pairs that otherwise spell `x` deletes the bit of `x` that it stands for (R115). -/
theorem foldl_appendPair_one_invalid {pairs : List (BitVec 2)} {x n j : Nat} (len : pairs.length = n + 1)
    (hx : x < 2 ^ (n + 1)) (hj : j < n + 1) (invalid : pairs[j].getLsbD 1 = pairs[j].getLsbD 0)
    (valid : ∀ (i : Nat) (hi : i < n + 1), i ≠ j → pairs[i] = manchesterPair (x.testBit (n - i))) :
    pairs.foldl appendPair 0 = x / 2 ^ (n + 1 - j) * 2 ^ (n - j) + x % 2 ^ (n - j) := by
  have before_length : (pairs.take j).length = j := List.length_take_of_le (by omega)
  have after_length : (pairs.drop (j + 1)).length = n - j := by rw [List.length_drop]; omega
  have before : Spell (pairs.take j) (x / 2 ^ (n + 1 - j)) := by
    intro i hi
    rw [List.getElem_take, valid i (by omega) (by omega), Nat.testBit_div_two_pow, before_length]
    congr 2
    omega
  have after : Spell (pairs.drop (j + 1)) x := by
    intro i hi
    rw [List.getElem_drop, valid (j + 1 + i) (by omega) (by omega), after_length]
    congr 2
    omega
  have upper : x / 2 ^ (n + 1 - j) < 2 ^ j := by
    rwa [Nat.div_lt_iff_lt_mul (Nat.two_pow_pos _), ← Nat.pow_add, Nat.add_sub_cancel' hj.le]
  calc pairs.foldl appendPair 0
      = (pairs.take j ++ pairs[j] :: pairs.drop (j + 1)).foldl appendPair 0 := by
        rw [List.cons_getElem_drop_succ, List.take_append_drop]
    _ = x / 2 ^ (n + 1 - j) * 2 ^ (n - j) + x % 2 ^ (n - j) := by
        rw [List.foldl_append, List.foldl_cons, appendPair_invalid invalid, foldl_appendPair_of_spell before,
          foldl_appendPair_of_spell after, before_length, after_length, Nat.zero_mul, Nat.zero_add,
          Nat.mod_eq_of_lt upper]

/-- `X` followed by the first bit of the frame's last pair, the one that DECODE drops if all pairs are valid (R115). -/
def withLastBit (X : BitVec 36) (S : Frame) : BitVec 37 := X ++ BitVec.ofBool (streamBit S 126)

theorem withLastBit_toNat (X : BitVec 36) (S : Frame) :
    (withLastBit X S).toNat = X.toNat * 2 + (streamBit S 126).toNat := by
  rw [withLastBit, toNat_append_eq_add, BitVec.toNat_ofBool, Nat.pow_one]

theorem withLastBit_getLsbD {X : BitVec 36} {S : Frame} {k : Nat} (hk : k < 37)
    (bits : k < 36 → streamBit S ⟨54 + 2 * k, by omega⟩ = X.getLsbD (35 - k)) :
    (withLastBit X S).getLsbD (36 - k) = streamBit S ⟨54 + 2 * k, by omega⟩ := by
  rw [withLastBit, BitVec.getLsbD_append]
  by_cases last : k = 36
  · subst last
    simp
  · rw [if_neg (by omega), bits (by omega), Nat.sub_right_comm]

/-- A pair of unequal raw bits is the Manchester coding of the first (R111). -/
theorem streamPair_of_valid {S : Frame} {k : Fin 37}
    (valid : streamBit S ⟨54 + 2 * k.val, by omega⟩ ≠ streamBit S ⟨55 + 2 * k.val, by omega⟩) :
    streamPair S k = manchesterPair (streamBit S ⟨54 + 2 * k.val, by omega⟩) :=
  eq_manchesterPair (streamPair_first S k) ((streamPair_second S k).trans (Bool.eq_not.2 valid.symm))

/-- Dropping the last bit after deleting bit `i + 1` is deleting bit `i` of the number without its last bit. -/
theorem delete_bit_div_two {x b i : Nat} (hb : b ≤ 1) :
    ((x * 2 + b) / 2 ^ (i + 2) * 2 ^ (i + 1) + (x * 2 + b) % 2 ^ (i + 1)) / 2 =
      x / 2 ^ (i + 1) * 2 ^ i + x % 2 ^ i := by
  have half : (x * 2 + b) / 2 = x := by omega
  have upper : (x * 2 + b) / 2 ^ (i + 2) = x / 2 ^ (i + 1) := by
    rw [Nat.pow_succ' (n := i + 1), ← Nat.div_div_eq_div_mul, half]
  rw [upper, Nat.pow_succ' (n := i), Nat.mod_mul, half, Nat.mul_left_comm]
  omega

/-- Settles O40: the pairs spell `X` and one bit more with one bit deleted, and DECODE drops the last bit that is
left. -/
theorem oneInvalidPairDeletesOneBit : Obligations.OneInvalidPairDeletesOneBit := by
  rintro S X ⟨j, hj⟩ invalid bits
  have hlast := (streamBit S 126).toNat_le
  have collected : (valuePairs S).foldl appendPair 0 =
      (withLastBit X S).toNat / 2 ^ (37 - j) * 2 ^ (36 - j) + (withLastBit X S).toNat % 2 ^ (36 - j) := by
    refine foldl_appendPair_one_invalid (valuePairs_length S) (withLastBit X S).isLt hj ?_ fun i hi differs => ?_
    · rw [valuePairs_getElem S hj, streamPair_first, streamPair_second]
      exact (invalid ⟨j, hj⟩).2 rfl
    · have valid := mt (invalid ⟨i, hi⟩).1 (differs <| congrArg Fin.val ·)
      rw [valuePairs_getElem S hi, streamPair_of_valid valid, BitVec.testBit_toNat,
        withLastBit_getLsbD hi fun h => bits ⟨i, h⟩ differs]
  rw [(decodeFrame_toNat S).1, collected, withLastBit_toNat]
  by_cases last : j = 36
  · subst last
    rw [if_pos rfl]
    omega
  · rw [if_neg last, show 37 - j = 35 - j + 2 by omega, show 36 - j = 35 - j + 1 by omega]
    exact delete_bit_div_two hlast

end Sys2Proof.Machine
end

section
/-! SUPPORT. The fatal failure (R131 to R136): what the latch does to an operation, to a step and to a run. -/

namespace Sys2Proof.Machine

open Sys2Proof.Safety

/-! ### The faulted block -/

/-- The faulted block takes the command, whatever its word is, and quiets its ports (R134, R136). -/
theorem perform_faulted {s : State} {c : Command} {rest : List Command} (issued : s.issued = c :: rest)
    (faulted : s.fault = true) : perform s = .next (quiet (s.withIssued rest)) := by
  rw [perform_cons issued, if_pos faulted]
  rfl

/-- A machine whose step answers a next state goes on from there. -/
theorem run_succ_of_step (M : Host.Core) {s t : M.State} (h : M.step s = .next t) (k : Nat) :
    M.run (k + 1) s = M.run k t := by
  rw [Host.Core.run, h]

/-- However many commands the faulted block takes, only its ports and the list of commands can have changed (R134). -/
theorem block_run_faulted {s : State} {k : Nat} (faulted : s.fault = true) (enough : k ≤ s.issued.length) :
    ∃ o, block.run k s = .next ((s.withIssued (s.issued.drop k)).withOut o) := by
  induction k generalizing s with
  | zero => exact ⟨s.out, rfl⟩
  | succ k ih =>
    cases issued : s.issued with
    | nil => simp [issued] at enough
    | cons c rest =>
      have enoughLeft : k ≤ rest.length := by simpa [issued] using enough
      obtain ⟨o, hrun⟩ := ih (s := quiet (s.withIssued rest)) faulted enoughLeft
      exact ⟨o, (run_succ_of_step block (perform_faulted issued faulted) k).trans hrun⟩

/-- Settles O46: by induction on the number of commands taken, the faulted block changes nothing but its ports and the
list. -/
theorem faultedBlockDoesNothing : Obligations.FaultedBlockDoesNothing := by
  intro s k faulted enough
  obtain ⟨o, hrun⟩ := block_run_faulted faulted enough
  exact ⟨fun i => exec_faulted i faulted, ⟨_, hrun, rfl, rfl, rfl⟩,
    fun _ _ issued => step_faulted issued faulted, rfl⟩

/-! ### Fatal causes -/

/-- Settles O9: one law of the step for each of R136's tests. -/
theorem stepTestsInOrder : Obligations.StepTestsInOrder := fun _ _ _ issued =>
  ⟨step_faulted issued, fun live _ reserved => step_reserved issued live reserved,
    fun live _ decodes fatal => step_fatal issued live decodes fatal, step_nil rfl⟩

/-- Settles O45: an operation with a cause is `raiseFatal` (R133), and one without leaves the latch alone. -/
theorem fatalCausesAreComplete : Obligations.FatalCausesAreComplete := by
  refine fun i s live => ⟨fun fatal => ?_, fun safe => ?_⟩
  · rw [exec_fatal fatal live]
    exact ⟨rfl, outcomeOf_faulted rfl⟩
  · obtain ⟨hfault, hcause⟩ := operation_keeps_latch safe (quiet s)
    rw [exec_live i live]
    exact ⟨_, rfl, outcomeOf_live (hfault.trans live), hfault.trans live, hcause⟩

/-! ### Runs -/

/-- The last step of a run that answers a next state left `fault = 0` (R133). -/
theorem run_succ_next_live {s t : State} {k : Nat} (h : core.run (k + 1) s = .next t) : t.fault = false := by
  rw [run_add k 1 s] at h
  cases hk : core.run k s with
  | next u =>
    rw [hk] at h
    obtain ⟨-, -, -, -, -, -, -, live⟩ := step_next ((run_one u).symm.trans h)
    exact live
  | fault r => rw [hk] at h; cases h
  | refused r => rw [hk] at h; cases h

/-- From `fault = 0` a run keeps `fault = 0` as long as it answers a next state. -/
theorem run_next_live {s t : State} {k : Nat} (live : s.fault = false) (h : core.run k s = .next t) :
    t.fault = false := by
  cases k with
  | zero => cases h; exact live
  | succ k => exact run_succ_next_live h

/-- A run that comes to a step with outcome *fault* ends there, however many more steps are asked for. -/
theorem run_fault {s t : State} {k : Nat} {f : Fault} (h : core.run k s = .next t) (hstep : step t = .fault f)
    (n : Nat) : core.run (k + 1 + n) s = .fault f := by
  rw [run_add (k + 1) n, run_add k 1, h]
  simp only [run_one]
  rw [hstep]

/-- A step of a live block whose outcome is *fault* took a command with a fatal cause. -/
theorem exists_fatal_of_step_fault {s : State} {f : Fault} (live : s.fault = false) (h : step s = .fault f) :
    ∃ c rest i, s.issued = c :: rest ∧ decodeCommand c = .ok i ∧ fatalCauseOf i ≠ .none := by
  obtain ⟨r, e⟩ | ⟨c, rest, -, faulted, -⟩ | ⟨c, rest, i, issued, -, decodes, -⟩ := step_cases s
  · cases e.symm.trans h
  · simp [live] at faulted
  · refine ⟨c, rest, i, issued, decodes, fun safe => ?_⟩
    rw [step_live issued live decodes safe, exec_eq] at h
    cases h

/-- Settles O51: only a fatal cause makes a step from `fault = 0` a fault, and a run stops at that step. -/
theorem runEndsAtFatal : Obligations.RunEndsAtFatal := by
  refine ⟨fun _ _ _ => run_succ_next_live, ?_, fun s f live h => ?_⟩
  · intro s t k n c rest i live hrun issued decodes fatal
    exact run_fault hrun (step_fatal issued (run_next_live live hrun) decodes fatal) n
  · obtain ⟨c, rest, i, issued, decodes, fatal⟩ := exists_fatal_of_step_fault live h
    have latched := h.symm.trans (step_fatal issued live decodes fatal)
    injection latched with latched
    exact ⟨c, rest, i, issued, decodes, fatal, latched⟩

end Sys2Proof.Machine
end

section
/-! SUPPORT. Reset and the loss of edges under backpressure (R150, R154). -/

namespace Sys2Proof.Machine

open Sys2Proof.Safety

/-- The elements of a block right after hard reset (R20). -/
theorem elements_created (p : Params) :
    elements (State.created p) = (0#32, .short, 0, p.frameInit, false, false, .none) := rfl

/-- Settles O2: hard reset gives the elements of creation under the configuration that it keeps. -/
theorem hardResetValues : Obligations.HardResetValues :=
  ⟨elements_created, rfl, fun s => ⟨elements_created s.config, rfl, rfl⟩⟩

/-- While a frame waits, a train of edges at the head of the list is taken and changes nothing but the ports (R72). -/
theorem run_edges_ready {edges : List Instr} (hedges : ∀ i ∈ edges, isEdge i = true) (rest : List Command)
    {s : State} (live : s.fault = false) (waiting : s.ready = true) :
    ∃ o, core.run edges.length (s.withIssued (edges.map encodeCommand ++ rest)) =
      .next ((s.withOut o).withIssued rest) := by
  induction edges generalizing s with
  | nil => exact ⟨s.out, rfl⟩
  | cons edge edges ih =>
    obtain ⟨hedge, hedges⟩ := List.forall_mem_cons.1 hedges
    have lost : operation edge (quiet s) = quiet s := operation_edge_ready hedge waiting
    obtain ⟨o, hrun⟩ := ih hedges (s := quiet s) live waiting
    refine ⟨o, ?_⟩
    calc core.run (edges.length + 1) (s.withIssued (encodeCommand edge :: (edges.map encodeCommand ++ rest)))
      _ = core.run edges.length ((operation edge (quiet s)).withIssued (edges.map encodeCommand ++ rest)) :=
        run_issued live (fatalCauseOf_edge hedge) _ _
      _ = .next (((quiet s).withOut o).withIssued rest) := by rw [lost, hrun]

/-- Settles O13: by induction on the train, only the ports and the list of commands differ at its end. -/
theorem backpressureLosesEveryEdge : Obligations.BackpressureLosesEveryEdge := by
  intro s edges rest live waiting hedges issued
  obtain ⟨o, hrun⟩ := run_edges_ready hedges rest live waiting
  exact ⟨_, (run_withIssued_self issued _).trans hrun, rfl, rfl, rfl⟩

end Sys2Proof.Machine
end
